-- ==== Sys2Proof/Word.lean ====
section
/-! DEFINITION. The widths, register numbers and word types of bigz CORE (spec/00_scope.md R2, R8; spec/30_encoding.md R91). -/

namespace Sys2Proof

/-- The instance width P_W: 512 or 1024 (R2). Two configurations of one design, not two modes of one instance. -/
inductive Width where
  | w512
  | w1024
deriving DecidableEq, Repr

/-- L, the number of 64-bit limbs of a V register (R8). -/
def Width.limbs : Width → Nat
  | .w512 => 8
  | .w1024 => 16

/-- W, the operand width in bits (R2, R8). -/
def Width.bits (w : Width) : Nat := 64 * w.limbs

/-- H = W/2, the half width (R8). -/
def Width.half (w : Width) : Nat := w.bits / 2

/-- A 64-bit machine word: a limb, an S register, a host word (R17 Limb, R32). -/
abbrev Limb := BitVec 64

/-- A 32-bit command word (R90). -/
abbrev CommandWord := BitVec 32

/-- A register number 0..15, four bits of the command word (R91). Whether it names a V or an S register is fixed by
the opcode (R93). -/
abbrev Reg := Fin 16

end Sys2Proof
end

