-- ==== Sys2Proof/Syntax.lean ====
section
/-! DEFINITION. The command set as syntax: one constructor per row of spec/opcode_table.json (spec/30_encoding.md R97), with
the register fields its format uses, in field order rd, re, ra, rb, rc (R92). -/

namespace Sys2Proof

/-- A command of bigz CORE. Whether a field names a V or an S register is fixed by the command (R93; the class of each
field is written beside its constructor). -/
inductive Instr where
  -- Control (40_control_constructors.md)
  /-- NOP (R120). -/
  | nop
  /-- CLC (R121). -/
  | clc
  /-- STC (R122). -/
  | stc
  -- Constructors (40_control_constructors.md)
  /-- ZERO (R123): rd = V. -/
  | zero (rd : Reg)
  /-- ONE (R124): rd = V. -/
  | one (rd : Reg)
  /-- MAX (R125): rd = V. -/
  | max (rd : Reg)
  /-- FROM64 (R126): rd = V, ra = S. -/
  | from64 (rd ra : Reg)
  /-- FROM128 (R127): rd = V, ra = V. -/
  | from128 (rd ra : Reg)
  /-- FROM256 (R128): rd = V, ra = V. -/
  | from256 (rd ra : Reg)
  /-- FROM512 (R129): rd = V, ra = V. -/
  | from512 (rd ra : Reg)
  -- Predicates and compares (41_predicates.md)
  /-- ISZERO (R141): rd = S, ra = V. -/
  | isZero (rd ra : Reg)
  /-- EQ (R142): rd = S, ra = V, rb = V. -/
  | eq (rd ra rb : Reg)
  /-- CMP (R143): rd = S, ra = V, rb = V. -/
  | cmp (rd ra rb : Reg)
  /-- EQ.H (R144): rd = S, ra = V, rb = V. -/
  | eqH (rd ra rb : Reg)
  /-- CMP.H (R145): rd = S, ra = V, rb = V. -/
  | cmpH (rd ra rb : Reg)
  -- Bitwise (42_bitwise.md)
  /-- NOT (R161): rd = V, ra = V. -/
  | not (rd ra : Reg)
  /-- AND (R162): rd = V, ra = V, rb = V. -/
  | and (rd ra rb : Reg)
  /-- OR (R163): rd = V, ra = V, rb = V. -/
  | or (rd ra rb : Reg)
  /-- XOR (R164): rd = V, ra = V, rb = V. -/
  | xor (rd ra rb : Reg)
  /-- ANDNOT (R165): rd = V, ra = V, rb = V. -/
  | andNot (rd ra rb : Reg)
  /-- AND.H (R166): rd = V, ra = V, rb = V. -/
  | andH (rd ra rb : Reg)
  /-- OR.H (R167): rd = V, ra = V, rb = V. -/
  | orH (rd ra rb : Reg)
  /-- XOR.H (R168): rd = V, ra = V, rb = V. -/
  | xorH (rd ra rb : Reg)
  /-- ANDNOT.H (R169): rd = V, ra = V, rb = V. -/
  | andNotH (rd ra rb : Reg)
  -- Additive (43_additive.md)
  /-- ADD (R180): rd = V, ra = V, rb = V. -/
  | add (rd ra rb : Reg)
  /-- ADDC (R181): rd = V, ra = V, rb = V. -/
  | addc (rd ra rb : Reg)
  /-- SUB (R182): rd = V, ra = V, rb = V. -/
  | sub (rd ra rb : Reg)
  /-- SUBB (R183): rd = V, ra = V, rb = V. -/
  | subb (rd ra rb : Reg)
  /-- ADD.H (R184): rd = V, ra = V, rb = V. -/
  | addH (rd ra rb : Reg)
  /-- SUB.H (R185): rd = V, ra = V, rb = V. -/
  | subH (rd ra rb : Reg)
  -- Multiplicative (44_multiplicative.md)
  /-- MUL (R200): rd = V, ra = V, rb = V. -/
  | mul (rd ra rb : Reg)
  /-- MUL.H (R201): rd = V, ra = V, rb = V. -/
  | mulH (rd ra rb : Reg)
  /-- MULX (R202): rd = V, re = V, ra = V, rb = V. -/
  | mulx (rd re ra rb : Reg)
  -- Division (45_division.md)
  /-- QUOREM (R220): rd = V, re = V, ra = V, rb = V. -/
  | quoRem (rd re ra rb : Reg)
  /-- QUOREM.64 (R221): rd = V, re = V, ra = V, rb = V. -/
  | quoRem64 (rd re ra rb : Reg)
  /-- QUOREM.128 (R222): rd = V, re = V, ra = V, rb = V. -/
  | quoRem128 (rd re ra rb : Reg)
  /-- QUOREM.256 (R223): rd = V, re = V, ra = V, rb = V. -/
  | quoRem256 (rd re ra rb : Reg)
  /-- QUOREM.512 (R224): rd = V, re = V, ra = V, rb = V. -/
  | quoRem512 (rd re ra rb : Reg)
  /-- DIVX (R225): rd = V, re = V, ra = V, rb = V, rc = V. -/
  | divx (rd re ra rb rc : Reg)
  -- Shift (46_shift.md)
  /-- LSH (R250): rd = V, ra = V, rb = S. -/
  | lsh (rd ra rb : Reg)
  /-- RSH (R251): rd = V, ra = V, rb = S. -/
  | rsh (rd ra rb : Reg)
  -- Bit introspection (47_introspection.md)
  /-- BITLEN (R270): rd = S, ra = V. -/
  | bitLen (rd ra : Reg)
  /-- CLZ (R271): rd = S, ra = V. -/
  | clz (rd ra : Reg)
  /-- CTZ (R272): rd = S, ra = V. -/
  | ctz (rd ra : Reg)
  /-- POPCNT (R273): rd = S, ra = V. -/
  | popcnt (rd ra : Reg)
  /-- BIT (R274): rd = S, ra = V, rb = S. -/
  | bit (rd ra rb : Reg)
  /-- REV (R275): rd = V, ra = V. -/
  | rev (rd ra : Reg)
  /-- REVB (R276): rd = V, ra = V. -/
  | revB (rd ra : Reg)
deriving DecidableEq, Repr

end Sys2Proof
end

