-- ==== Sys2Proof/WellFormed.lean ====
section
/-! DEFINITION. Which terms of Instr are commands of an instance of width W: the two conditions of spec/30_encoding.md R100
that a term can still break once its fields are register numbers (steps 4 and 6). -/

namespace Sys2Proof

/-- Legal at this instance width (R97, R100 step 4, D30): FROM512 and QUOREM.512 exist at W = 1024 only. -/
def Instr.legalAt (w : Width) : Instr → Bool
  | .nop => true
  | .clc => true
  | .stc => true
  | .zero _ => true
  | .one _ => true
  | .max _ => true
  | .from64 _ _ => true
  | .from128 _ _ => true
  | .from256 _ _ => true
  | .from512 _ _ => w == .w1024
  | .isZero _ _ => true
  | .eq _ _ _ => true
  | .cmp _ _ _ => true
  | .eqH _ _ _ => true
  | .cmpH _ _ _ => true
  | .not _ _ => true
  | .and _ _ _ => true
  | .or _ _ _ => true
  | .xor _ _ _ => true
  | .andNot _ _ _ => true
  | .andH _ _ _ => true
  | .orH _ _ _ => true
  | .xorH _ _ _ => true
  | .andNotH _ _ _ => true
  | .add _ _ _ => true
  | .addc _ _ _ => true
  | .sub _ _ _ => true
  | .subb _ _ _ => true
  | .addH _ _ _ => true
  | .subH _ _ _ => true
  | .mul _ _ _ => true
  | .mulH _ _ _ => true
  | .mulx _ _ _ _ => true
  | .quoRem _ _ _ _ => true
  | .quoRem64 _ _ _ _ => true
  | .quoRem128 _ _ _ _ => true
  | .quoRem256 _ _ _ _ => true
  | .quoRem512 _ _ _ _ => w == .w1024
  | .divx _ _ _ _ _ => true
  | .lsh _ _ _ => true
  | .rsh _ _ _ => true
  | .bitLen _ _ => true
  | .clz _ _ => true
  | .ctz _ _ => true
  | .popcnt _ _ => true
  | .bit _ _ _ => true
  | .rev _ _ => true
  | .revB _ _ => true

/-- The two destinations differ, where the command has two (R96, R100 step 6). -/
def Instr.distinctDestinations : Instr → Bool
  | .nop => true
  | .clc => true
  | .stc => true
  | .zero _ => true
  | .one _ => true
  | .max _ => true
  | .from64 _ _ => true
  | .from128 _ _ => true
  | .from256 _ _ => true
  | .from512 _ _ => true
  | .isZero _ _ => true
  | .eq _ _ _ => true
  | .cmp _ _ _ => true
  | .eqH _ _ _ => true
  | .cmpH _ _ _ => true
  | .not _ _ => true
  | .and _ _ _ => true
  | .or _ _ _ => true
  | .xor _ _ _ => true
  | .andNot _ _ _ => true
  | .andH _ _ _ => true
  | .orH _ _ _ => true
  | .xorH _ _ _ => true
  | .andNotH _ _ _ => true
  | .add _ _ _ => true
  | .addc _ _ _ => true
  | .sub _ _ _ => true
  | .subb _ _ _ => true
  | .addH _ _ _ => true
  | .subH _ _ _ => true
  | .mul _ _ _ => true
  | .mulH _ _ _ => true
  | .mulx rd re _ _ => rd != re
  | .quoRem rd re _ _ => rd != re
  | .quoRem64 rd re _ _ => rd != re
  | .quoRem128 rd re _ _ => rd != re
  | .quoRem256 rd re _ _ => rd != re
  | .quoRem512 rd re _ _ => rd != re
  | .divx rd re _ _ _ => rd != re
  | .lsh _ _ _ => true
  | .rsh _ _ _ => true
  | .bitLen _ _ => true
  | .clz _ _ => true
  | .ctz _ _ => true
  | .popcnt _ _ => true
  | .bit _ _ _ => true
  | .rev _ _ => true
  | .revB _ _ => true

/-- A command that an instance of width `w` accepts: legal at `w`, and with distinct destinations. -/
def Instr.wellFormed (w : Width) (i : Instr) : Bool := i.legalAt w && i.distinctDestinations

end Sys2Proof
end

