-- ==== Sys2Proof/Decode.lean ====
section
/-! DEFINITION. The encoding of spec/30_encoding.md: the opcode map, the six formats, the decoder (total on every CMD value,
rejecting by the condition of R100 that fails first), and after it the encoder, written from the same map. -/

namespace Sys2Proof

/-- The six formats of R92. -/
inductive Format where
  | n | d | da | dab | deab | deabc
deriving DecidableEq, Repr

/-- The register fields of a command word (R91). -/
structure Fields where
  rd : Reg
  re : Reg
  ra : Reg
  rb : Reg
  rc : Reg
deriving DecidableEq, Repr

/-- The commands by name, one per row of the opcode map (R97). -/
inductive Opcode where
  | nop | clc | stc
  | zero | one | max | from64 | from128 | from256 | from512
  | isZero | eq | cmp | eqH | cmpH
  | not | and | or | xor | andNot | andH | orH | xorH | andNotH
  | add | addc | sub | subb | addH | subH
  | mul | mulH | mulx
  | quoRem | quoRem64 | quoRem128 | quoRem256 | quoRem512 | divx
  | lsh | rsh
  | bitLen | clz | ctz | popcnt | bit | rev | revB
deriving DecidableEq, Repr

/-- Every opcode, family by family in the order of R97. -/
def Opcode.all : List Opcode := List.flatten [
  [.nop, .clc, .stc],
  [.zero, .one, .max, .from64, .from128, .from256, .from512],
  [.isZero, .eq, .cmp, .eqH, .cmpH],
  [.not, .and, .or, .xor, .andNot, .andH, .orH, .xorH, .andNotH],
  [.add, .addc, .sub, .subb, .addH, .subH],
  [.mul, .mulH, .mulx],
  [.quoRem, .quoRem64, .quoRem128, .quoRem256, .quoRem512, .divx],
  [.lsh, .rsh],
  [.bitLen, .clz, .ctz, .popcnt, .bit, .rev, .revB]]

/-- OP, bits [7:0] of the command word (R97). -/
def Opcode.byte : Opcode → Nat
  | .nop => 0x00
  | .clc => 0x01
  | .stc => 0x02
  | .zero => 0x10
  | .one => 0x11
  | .max => 0x12
  | .from64 => 0x13
  | .from128 => 0x14
  | .from256 => 0x15
  | .from512 => 0x16
  | .isZero => 0x20
  | .eq => 0x21
  | .cmp => 0x22
  | .eqH => 0x23
  | .cmpH => 0x24
  | .not => 0x30
  | .and => 0x31
  | .or => 0x32
  | .xor => 0x33
  | .andNot => 0x34
  | .andH => 0x35
  | .orH => 0x36
  | .xorH => 0x37
  | .andNotH => 0x38
  | .add => 0x40
  | .addc => 0x41
  | .sub => 0x42
  | .subb => 0x43
  | .addH => 0x44
  | .subH => 0x45
  | .mul => 0x50
  | .mulH => 0x51
  | .mulx => 0x52
  | .quoRem => 0x60
  | .quoRem64 => 0x61
  | .quoRem128 => 0x62
  | .quoRem256 => 0x63
  | .quoRem512 => 0x64
  | .divx => 0x65
  | .lsh => 0x70
  | .rsh => 0x71
  | .bitLen => 0x80
  | .clz => 0x81
  | .ctz => 0x82
  | .popcnt => 0x83
  | .bit => 0x84
  | .rev => 0x85
  | .revB => 0x86

/-- The mnemonic, as the opcode table spells it (R97). -/
def Opcode.mnemonic : Opcode → String
  | .nop => "NOP"
  | .clc => "CLC"
  | .stc => "STC"
  | .zero => "ZERO"
  | .one => "ONE"
  | .max => "MAX"
  | .from64 => "FROM64"
  | .from128 => "FROM128"
  | .from256 => "FROM256"
  | .from512 => "FROM512"
  | .isZero => "ISZERO"
  | .eq => "EQ"
  | .cmp => "CMP"
  | .eqH => "EQ.H"
  | .cmpH => "CMP.H"
  | .not => "NOT"
  | .and => "AND"
  | .or => "OR"
  | .xor => "XOR"
  | .andNot => "ANDNOT"
  | .andH => "AND.H"
  | .orH => "OR.H"
  | .xorH => "XOR.H"
  | .andNotH => "ANDNOT.H"
  | .add => "ADD"
  | .addc => "ADDC"
  | .sub => "SUB"
  | .subb => "SUBB"
  | .addH => "ADD.H"
  | .subH => "SUB.H"
  | .mul => "MUL"
  | .mulH => "MUL.H"
  | .mulx => "MULX"
  | .quoRem => "QUOREM"
  | .quoRem64 => "QUOREM.64"
  | .quoRem128 => "QUOREM.128"
  | .quoRem256 => "QUOREM.256"
  | .quoRem512 => "QUOREM.512"
  | .divx => "DIVX"
  | .lsh => "LSH"
  | .rsh => "RSH"
  | .bitLen => "BITLEN"
  | .clz => "CLZ"
  | .ctz => "CTZ"
  | .popcnt => "POPCNT"
  | .bit => "BIT"
  | .rev => "REV"
  | .revB => "REVB"

/-- The format of each command (R92, R97). -/
def Opcode.format : Opcode → Format
  | .nop | .clc | .stc => .n
  | .zero | .one | .max => .d
  | .from64 | .from128 | .from256 | .from512 | .isZero | .not | .bitLen | .clz
  | .ctz | .popcnt | .rev | .revB => .da
  | .eq | .cmp | .eqH | .cmpH | .and | .or | .xor | .andNot
  | .andH | .orH | .xorH | .andNotH | .add | .addc | .sub | .subb
  | .addH | .subH | .mul | .mulH | .lsh | .rsh | .bit => .dab
  | .mulx | .quoRem | .quoRem64 | .quoRem128 | .quoRem256 | .quoRem512 => .deab
  | .divx => .deabc

/-- The instance widths at which an opcode is legal (R97, D30). -/
def Opcode.legalAt (w : Width) : Opcode → Bool
  | .from512 | .quoRem512 => w == .w1024
  | .nop | .clc | .stc | .zero | .one | .max | .from64 | .from128
  | .from256 | .isZero | .eq | .cmp | .eqH | .cmpH | .not | .and
  | .or | .xor | .andNot | .andH | .orH | .xorH | .andNotH | .add
  | .addc | .sub | .subb | .addH | .subH | .mul | .mulH | .mulx
  | .quoRem | .quoRem64 | .quoRem128 | .quoRem256 | .divx | .lsh | .rsh | .bitLen
  | .clz | .ctz | .popcnt | .bit | .rev | .revB => true

/-- `v[lo+n-1:lo]`, the slice of R11 as a natural. -/
def bitSlice (v lo n : Nat) : Nat := v / 2 ^ lo % 2 ^ n

/-- The 4-bit register field of a command word whose lowest bit is `lo` (R91). -/
def regField (c lo : Nat) : Reg := ⟨bitSlice c lo 4, Nat.mod_lt _ (by decide)⟩

/-- The five register fields of a command word (R91). -/
def fieldsOf (c : Nat) : Fields :=
  { rd := regField c 8, re := regField c 12, ra := regField c 16, rb := regField c 20, rc := regField c 24 }

/-- Whether a format uses a field (R92), in the order rd, re, ra, rb, rc. -/
def Format.usesRd : Format → Bool
  | .n => false
  | .d | .da | .dab | .deab | .deabc => true

def Format.usesRe : Format → Bool
  | .n | .d | .da | .dab => false
  | .deab | .deabc => true

def Format.usesRa : Format → Bool
  | .n | .d => false
  | .da | .dab | .deab | .deabc => true

def Format.usesRb : Format → Bool
  | .n | .d | .da => false
  | .dab | .deab | .deabc => true

def Format.usesRc : Format → Bool
  | .n | .d | .da | .dab | .deab => false
  | .deabc => true

/-- Every field the format does not use is 0 (R92, R100 step 5). -/
def Format.unusedZero (fm : Format) (f : Fields) : Bool :=
  (fm.usesRd || f.rd == 0) && (fm.usesRe || f.re == 0) && (fm.usesRa || f.ra == 0) &&
    (fm.usesRb || f.rb == 0) && (fm.usesRc || f.rc == 0)

/-- The command an opcode makes of the fields; the fields its format does not use are dropped (R92, R97). -/
def Opcode.instr (op : Opcode) (f : Fields) : Instr :=
  match op with
  | .nop => .nop
  | .clc => .clc
  | .stc => .stc
  | .zero => .zero f.rd
  | .one => .one f.rd
  | .max => .max f.rd
  | .from64 => .from64 f.rd f.ra
  | .from128 => .from128 f.rd f.ra
  | .from256 => .from256 f.rd f.ra
  | .from512 => .from512 f.rd f.ra
  | .isZero => .isZero f.rd f.ra
  | .eq => .eq f.rd f.ra f.rb
  | .cmp => .cmp f.rd f.ra f.rb
  | .eqH => .eqH f.rd f.ra f.rb
  | .cmpH => .cmpH f.rd f.ra f.rb
  | .not => .not f.rd f.ra
  | .and => .and f.rd f.ra f.rb
  | .or => .or f.rd f.ra f.rb
  | .xor => .xor f.rd f.ra f.rb
  | .andNot => .andNot f.rd f.ra f.rb
  | .andH => .andH f.rd f.ra f.rb
  | .orH => .orH f.rd f.ra f.rb
  | .xorH => .xorH f.rd f.ra f.rb
  | .andNotH => .andNotH f.rd f.ra f.rb
  | .add => .add f.rd f.ra f.rb
  | .addc => .addc f.rd f.ra f.rb
  | .sub => .sub f.rd f.ra f.rb
  | .subb => .subb f.rd f.ra f.rb
  | .addH => .addH f.rd f.ra f.rb
  | .subH => .subH f.rd f.ra f.rb
  | .mul => .mul f.rd f.ra f.rb
  | .mulH => .mulH f.rd f.ra f.rb
  | .mulx => .mulx f.rd f.re f.ra f.rb
  | .quoRem => .quoRem f.rd f.re f.ra f.rb
  | .quoRem64 => .quoRem64 f.rd f.re f.ra f.rb
  | .quoRem128 => .quoRem128 f.rd f.re f.ra f.rb
  | .quoRem256 => .quoRem256 f.rd f.re f.ra f.rb
  | .quoRem512 => .quoRem512 f.rd f.re f.ra f.rb
  | .divx => .divx f.rd f.re f.ra f.rb f.rc
  | .lsh => .lsh f.rd f.ra f.rb
  | .rsh => .rsh f.rd f.ra f.rb
  | .bitLen => .bitLen f.rd f.ra
  | .clz => .clz f.rd f.ra
  | .ctz => .ctz f.rd f.ra
  | .popcnt => .popcnt f.rd f.ra
  | .bit => .bit f.rd f.ra f.rb
  | .rev => .rev f.rd f.ra
  | .revB => .revB f.rd f.ra

/-- The opcode whose OP value is `b`, if the map has one (R97, R101). -/
def Opcode.ofByte (b : Nat) : Option Opcode := Opcode.all.find? (fun op => op.byte == b)

/-- Why a CMD value is illegal: the six conditions of R100, in its order. -/
inductive Illegal where
  /-- Step 1: bits [63:32] of the value written to CMD are not 0. -/
  | cmdHighBits
  /-- Step 2: bits [31:28] of the command word are not 0. -/
  | reservedBits
  /-- Step 3: OP is not in the map (R101). -/
  | reservedOpcode
  /-- Step 4: OP is in the map but not legal at this W. -/
  | notAtThisWidth
  /-- Step 5: a register field the format does not use is not 0. -/
  | unusedField
  /-- Step 6: two destinations and rd = re. -/
  | sameDestinations
deriving DecidableEq, Repr

/-- The decoder, total on every 64-bit CMD value and every W: the first condition of R100 that holds, or the command. -/
def decode (w : Width) (v : BitVec 64) : Except Illegal Instr :=
  let c := bitSlice v.toNat 0 32
  let f := fieldsOf c
  if bitSlice v.toNat 32 32 ≠ 0 then .error .cmdHighBits
  else if bitSlice c 28 4 ≠ 0 then .error .reservedBits
  else match Opcode.ofByte (bitSlice c 0 8) with
    | none => .error .reservedOpcode
    | some op =>
      if op.legalAt w = false then .error .notAtThisWidth
      else if op.format.unusedZero f = false then .error .unusedField
      else if op.format.usesRe = true ∧ f.rd = f.re then .error .sameDestinations
      else .ok (op.instr f)

/-- The mask of fixed bits of a format, as the table of R92 gives it. -/
def Format.mask : Format → CommandWord
  | .n => 0xFFFFFFFF
  | .d => 0xFFFFF0FF
  | .da => 0xFFF0F0FF
  | .dab => 0xFF00F0FF
  | .deab => 0xFF0000FF
  | .deabc => 0xF00000FF

/-- `match` of a row: the OP value in bits [7:0], every other fixed bit 0 (R92). -/
def Opcode.matchWord (op : Opcode) : CommandWord := BitVec.ofNat 32 op.byte

/-- A command word selects a row exactly when `(c AND mask) = match` (R92). -/
def Opcode.selectedBy (op : Opcode) (c : CommandWord) : Bool := (c &&& op.format.mask) == op.matchWord

/-- The decoder as R102 writes it, with the mask test in place of the field tests. -/
def decodeByMask (w : Width) (v : BitVec 64) : Option Instr :=
  let c : CommandWord := v.setWidth 32
  if v >>> 32 ≠ 0 then none
  else if c >>> 28 ≠ 0 then none
  else match Opcode.all.find? (fun op => op.matchWord == (c &&& 0xFF)) with
    | none => none
    | some op =>
      if op.legalAt w = false then none
      else if op.selectedBy c = false then none
      else if op.format.usesRe = true ∧ regField c.toNat 8 = regField c.toNat 12 then none
      else some (op.instr (fieldsOf c.toNat))

/-- The opcode of a command. -/
def Instr.opcode : Instr → Opcode
  | .nop => .nop
  | .clc => .clc
  | .stc => .stc
  | .zero _ => .zero
  | .one _ => .one
  | .max _ => .max
  | .from64 _ _ => .from64
  | .from128 _ _ => .from128
  | .from256 _ _ => .from256
  | .from512 _ _ => .from512
  | .isZero _ _ => .isZero
  | .eq _ _ _ => .eq
  | .cmp _ _ _ => .cmp
  | .eqH _ _ _ => .eqH
  | .cmpH _ _ _ => .cmpH
  | .not _ _ => .not
  | .and _ _ _ => .and
  | .or _ _ _ => .or
  | .xor _ _ _ => .xor
  | .andNot _ _ _ => .andNot
  | .andH _ _ _ => .andH
  | .orH _ _ _ => .orH
  | .xorH _ _ _ => .xorH
  | .andNotH _ _ _ => .andNotH
  | .add _ _ _ => .add
  | .addc _ _ _ => .addc
  | .sub _ _ _ => .sub
  | .subb _ _ _ => .subb
  | .addH _ _ _ => .addH
  | .subH _ _ _ => .subH
  | .mul _ _ _ => .mul
  | .mulH _ _ _ => .mulH
  | .mulx _ _ _ _ => .mulx
  | .quoRem _ _ _ _ => .quoRem
  | .quoRem64 _ _ _ _ => .quoRem64
  | .quoRem128 _ _ _ _ => .quoRem128
  | .quoRem256 _ _ _ _ => .quoRem256
  | .quoRem512 _ _ _ _ => .quoRem512
  | .divx _ _ _ _ _ => .divx
  | .lsh _ _ _ => .lsh
  | .rsh _ _ _ => .rsh
  | .bitLen _ _ => .bitLen
  | .clz _ _ => .clz
  | .ctz _ _ => .ctz
  | .popcnt _ _ => .popcnt
  | .bit _ _ _ => .bit
  | .rev _ _ => .rev
  | .revB _ _ => .revB

/-- The register fields of a command; a field its format does not use is 0 (R92). -/
def Instr.fields : Instr → Fields
  | .nop => ⟨0, 0, 0, 0, 0⟩
  | .clc => ⟨0, 0, 0, 0, 0⟩
  | .stc => ⟨0, 0, 0, 0, 0⟩
  | .zero rd => ⟨rd, 0, 0, 0, 0⟩
  | .one rd => ⟨rd, 0, 0, 0, 0⟩
  | .max rd => ⟨rd, 0, 0, 0, 0⟩
  | .from64 rd ra => ⟨rd, 0, ra, 0, 0⟩
  | .from128 rd ra => ⟨rd, 0, ra, 0, 0⟩
  | .from256 rd ra => ⟨rd, 0, ra, 0, 0⟩
  | .from512 rd ra => ⟨rd, 0, ra, 0, 0⟩
  | .isZero rd ra => ⟨rd, 0, ra, 0, 0⟩
  | .eq rd ra rb => ⟨rd, 0, ra, rb, 0⟩
  | .cmp rd ra rb => ⟨rd, 0, ra, rb, 0⟩
  | .eqH rd ra rb => ⟨rd, 0, ra, rb, 0⟩
  | .cmpH rd ra rb => ⟨rd, 0, ra, rb, 0⟩
  | .not rd ra => ⟨rd, 0, ra, 0, 0⟩
  | .and rd ra rb => ⟨rd, 0, ra, rb, 0⟩
  | .or rd ra rb => ⟨rd, 0, ra, rb, 0⟩
  | .xor rd ra rb => ⟨rd, 0, ra, rb, 0⟩
  | .andNot rd ra rb => ⟨rd, 0, ra, rb, 0⟩
  | .andH rd ra rb => ⟨rd, 0, ra, rb, 0⟩
  | .orH rd ra rb => ⟨rd, 0, ra, rb, 0⟩
  | .xorH rd ra rb => ⟨rd, 0, ra, rb, 0⟩
  | .andNotH rd ra rb => ⟨rd, 0, ra, rb, 0⟩
  | .add rd ra rb => ⟨rd, 0, ra, rb, 0⟩
  | .addc rd ra rb => ⟨rd, 0, ra, rb, 0⟩
  | .sub rd ra rb => ⟨rd, 0, ra, rb, 0⟩
  | .subb rd ra rb => ⟨rd, 0, ra, rb, 0⟩
  | .addH rd ra rb => ⟨rd, 0, ra, rb, 0⟩
  | .subH rd ra rb => ⟨rd, 0, ra, rb, 0⟩
  | .mul rd ra rb => ⟨rd, 0, ra, rb, 0⟩
  | .mulH rd ra rb => ⟨rd, 0, ra, rb, 0⟩
  | .mulx rd re ra rb => ⟨rd, re, ra, rb, 0⟩
  | .quoRem rd re ra rb => ⟨rd, re, ra, rb, 0⟩
  | .quoRem64 rd re ra rb => ⟨rd, re, ra, rb, 0⟩
  | .quoRem128 rd re ra rb => ⟨rd, re, ra, rb, 0⟩
  | .quoRem256 rd re ra rb => ⟨rd, re, ra, rb, 0⟩
  | .quoRem512 rd re ra rb => ⟨rd, re, ra, rb, 0⟩
  | .divx rd re ra rb rc => ⟨rd, re, ra, rb, rc⟩
  | .lsh rd ra rb => ⟨rd, 0, ra, rb, 0⟩
  | .rsh rd ra rb => ⟨rd, 0, ra, rb, 0⟩
  | .bitLen rd ra => ⟨rd, 0, ra, 0, 0⟩
  | .clz rd ra => ⟨rd, 0, ra, 0, 0⟩
  | .ctz rd ra => ⟨rd, 0, ra, 0, 0⟩
  | .popcnt rd ra => ⟨rd, 0, ra, 0, 0⟩
  | .bit rd ra rb => ⟨rd, 0, ra, rb, 0⟩
  | .rev rd ra => ⟨rd, 0, ra, 0, 0⟩
  | .revB rd ra => ⟨rd, 0, ra, 0, 0⟩

/-- The word of an OP value and fields (R91): `OP | rd<<8 | re<<12 | ra<<16 | rb<<20 | rc<<24`. -/
def packWord (op : Nat) (f : Fields) : Nat :=
  op + f.rd.val * 2 ^ 8 + f.re.val * 2 ^ 12 + f.ra.val * 2 ^ 16 + f.rb.val * 2 ^ 20 + f.rc.val * 2 ^ 24

/-- The command word of a command (R91, R97). -/
def encode (i : Instr) : CommandWord := BitVec.ofNat 32 (packWord i.opcode.byte i.fields)

/-- The value a host writes to CMD to issue a command: its word, zero-extended to 64 bits (R37, R90). -/
def encodeCmd (i : Instr) : BitVec 64 := (encode i).setWidth 64

/-- The 64-bit CMD value of an instruction whose bits are `w`, of which `nbits` are given and the rest are 0. -/
def tableCmdValue (nbits w : Nat) : BitVec 64 := BitVec.ofNat 64 (w % 2 ^ nbits)

/-- What the decoder reads from an instruction whose bits are `w`, on the W = 1024 instance, where every row of the opcode
table is legal (assumption log 3). A number that does not fit the 64-bit CMD register is no instruction. -/
def decodeTableWord (nbits w : Nat) : Option Instr :=
  if w % 2 ^ nbits < 2 ^ 64 then
    match decode .w1024 (tableCmdValue nbits w) with
    | .ok i => some i
    | .error _ => none
  else none

end Sys2Proof
end

