-- ==== Sys2Proof/Config.lean ====
section
/-! DEFINITION. What an implementation fixes and the spec leaves OPEN (spec/00_scope.md R8): constants with no body, so that
no proof can lean on a value of one. -/

namespace Sys2Proof

/-- P_BASE, the base address of the host window in the host's address space: OPEN (R60, D17; assumption log 7). -/
opaque Config.pBase : Nat

/-- P_LATENCY as a free value: `Config.latency n c xs` is how many CR reads still answer BUSY = 1 after the n-th accepted CMD
write, which wrote `c` while the block's registers held `xs`. Finite, under no other law; a fresh draw each time, and it
may differ per command and per operand value (R353, D26; DESIGN CHOICE of form, assumption log 4). -/
opaque Config.latency : Nat → BitVec 64 → List Nat → Nat

end Sys2Proof
end

