-- ==== Sys2Proof/Machine/State.lean ====
section
/-! DEFINITION. The state of bigz CORE as plain data: everything spec/10_state.md gives the block, and, marked as the model's
own, the host's side of the window (spec/70_reset_and_hazards.md R355). -/

namespace Sys2Proof.Machine

/-- A V register of `l` limbs: its value of W = 64·l bits (R31) and the written bit of each limb (R40). -/
structure VReg (l : Nat) where
  value : BitVec (64 * l)
  written : Vector Bool l
deriving DecidableEq, Repr

/-- The V register file of one instance: 16 registers of its width (R31). The width P_W is the constructor, so a register
can hold no bit above W, and no step can change W by writing one. -/
inductive VFile where
  | w512 (regs : Vector (VReg 8) 16)
  | w1024 (regs : Vector (VReg 16) 16)
deriving DecidableEq, Repr

/-- An S register: 64 bits (R32) and its written bit (R40). -/
structure SReg where
  value : BitVec 64
  written : Bool
deriving DecidableEq, Repr

/-- The three architectural faults (R300). FC = 0, 'none', is the absence of one; FC values 4-15 are never produced (R35). -/
inductive FaultCode where
  | divideByZero
  | quotientOverflow
  | illegalCommand
deriving DecidableEq, Repr

/-- The run state (R41). BUSY, FLT and FC are read from it, so FLT = 1 exactly when FC ≠ 0 (R34; assumption log 13). -/
inductive RunState where
  /-- BUSY = 0, FLT = 0. -/
  | idle
  /-- BUSY = 1: the CMD value in flight, and how many CR reads will still answer BUSY = 1 before the core's step (R353;
  assumption log 4). -/
  | busy (cmd : BitVec 64) (polls : Nat)
  /-- BUSY = 0, FLT = 1, with the fault code FC. -/
  | faulted (code : FaultCode)
deriving DecidableEq, Repr

/-- What the outside does to the block, one at a time: a host access of `size` bytes at byte offset `off` of the window
(R60, R65), or the platform's reset input (R340). -/
inductive HostEvent where
  | read (off size : Nat)
  | write (off size : Nat) (value : BitVec 64)
  | reset
deriving DecidableEq, Repr

/-- What the host gets back for one access (R355). -/
inductive Answer where
  /-- The 64 bits a read returns. -/
  | data (value : BitVec 64)
  /-- A write that was accepted, or a CMD write discarded in FAULTED: nothing comes back. -/
  | done
  /-- P_BUSERR, the bus response to a refused access: OPEN, an answer of its own kind (R66; assumption log 6). -/
  | busError
deriving DecidableEq, Repr

/-- The machine. The first five fields are the spec's; `refusedMark` and `unwrittenMark` are the marks of R311 and R310,
`busyAtLastRead` the record R356 asks for; the last three are the model's own (assumption logs 4 and 5). -/
structure State where
  /-- V[0..15] with their written bits, and the width W (R31, R40, R2). -/
  v : VFile
  /-- S[0..15] with their written bits (R32, R40). -/
  s : Vector SReg 16
  /-- CF, the carry flag, CR bit 0 (R33). -/
  cf : Bool
  /-- IDLE, BUSY(c) or FAULTED (R41), which carries BUSY, FLT and FC (R34, R35). -/
  run : RunState
  /-- FCMD, the CMD value of the command that faulted (R36). -/
  fcmd : BitVec 64
  /-- The REFUSED mark of the run: some access was refused (R311). Never cleared. -/
  refusedMark : Bool
  /-- The UNWRITTEN_READ mark of the run: some unwritten limb or S register was read (R310). Never cleared. -/
  unwrittenMark : Bool
  /-- BUSY as it stood at the host's last accepted read, of any register: what the premise 'BUSY = 0 at its last read' of R356
  speaks of. False before the first read (DESIGN CHOICE, assumption log 19). -/
  busyAtLastRead : Bool
  /-- The accesses the host is still to make, oldest first. -/
  host : List HostEvent
  /-- What the host got back so far, newest first. -/
  answers : List Answer
  /-- How many latencies were drawn: the index of the next free value. -/
  draws : Nat
deriving DecidableEq, Repr

/-- Why a step can stop the machine. The block has no such event (R300: a fault of the block is a NEXT state), so `step` and
`exec` never answer one. -/
inductive Fault where
  /-- UNWRITTEN_READ, the model-only stop of R310. Raised by `Safety.strictStep` alone, the reading of R310 in which such a
  run ends; never by `step`, which sets `unwrittenMark` and goes on as the hardware does. Safe: it stops where the
  hardware goes on. -/
  | unwrittenRead
deriving DecidableEq, Repr

/-- Why a step has no meaning to give. -/
inductive Refusal where
  /-- The instruction has no meaning in the model yet. No arm of `exec` answers it. Safe. -/
  | notModelled (mnemonic : String)
  /-- A refused host access ends the run (R311). Raised by `Safety.strictStep` alone; `step` answers P_BUSERR, sets
  `refusedMark` and goes on. Safe: it stops where the hardware goes on. -/
  | hostAccess
deriving DecidableEq, Repr

/-- A V register after reset: the spec leaves its contents unspecified and every limb unwritten (R42). The contents 0 are a
DESIGN CHOICE, unsafe (assumption log 2). -/
def VReg.reset (l : Nat) : VReg l := { value := 0, written := Vector.replicate l false }

/-- An S register after reset: contents as for V (assumption log 2), unwritten (R42). -/
def SReg.reset : SReg := { value := 0, written := false }

/-- The V file of an instance of width `w` after reset. -/
def VFile.reset : Width → VFile
  | .w512 => .w512 (Vector.replicate 16 (VReg.reset 8))
  | .w1024 => .w1024 (Vector.replicate 16 (VReg.reset 16))

/-- The state of an instance of width `w` right after reset (R42, R340), with nothing pending at the host. -/
def State.resetAt (w : Width) : State :=
  { v := VFile.reset w
    s := Vector.replicate 16 SReg.reset
    cf := false
    run := .idle
    fcmd := 0
    refusedMark := false
    unwrittenMark := false
    busyAtLastRead := false
    host := []
    answers := []
    draws := 0 }

/-- The machine right after reset. The instance is the W = 1024 one, where every command is legal: DESIGN CHOICE, safe
(assumption log 3); `State.resetAt .w512` is the other. -/
def State.reset : State := State.resetAt .w1024

end Sys2Proof.Machine
end

