-- ==== Sys2Proof/Machine/Prims.lean ====
section
/-! DEFINITION. The mathematical primitives of spec/00_scope.md R10, R11 and R14 on naturals: exact arithmetic, every wrap
written out. -/

namespace Sys2Proof.Machine

/-- `trunc_n(x) = x mod 2^n` (R10). -/
def trunc (n x : Nat) : Nat := x % 2 ^ n

/-- `trunc_n` of an exact integer, which may be negative (R10, R182). -/
def truncInt (n : Nat) (x : Int) : Nat := (x % (2 : Int) ^ n).toNat

/-- `Max_k = 2^k - 1` (R10). -/
def maxOf (k : Nat) : Nat := 2 ^ k - 1

/-- The k-bit complement `Max_k - x` (42_bitwise.md, its opening paragraph). -/
def complement (k x : Nat) : Nat := maxOf k - x

/-- Bit `i` of `x`, as 0 or 1: `x[i]` (R11). -/
def bitOf (x i : Nat) : Nat := bitSlice x i 1

/-- Limb `j` of `x`: `x[64j+63:64j]` (R11). -/
def limbOf (x j : Nat) : Nat := bitSlice x (64 * j) 64

/-- Byte `b` of `x`: `x[8b+7:8b]` (R11). -/
def byteOf (x b : Nat) : Nat := bitSlice x (8 * b) 8

/-- `{Hi: hi, Lo: lo}` at half width `k`: `lo + hi · 2^k` (R11). -/
def pair (k hi lo : Nat) : Nat := lo + hi * 2 ^ k

/-- `Len(x)`: the number of significant bits, 0 for 0 (R14, D24). -/
def len (x : Nat) : Nat := if x = 0 then 0 else Nat.log2 x + 1

/-- `LZ_k(x) = k - Len_k(x)` (R14). -/
def lz (k x : Nat) : Nat := k - len x

/-- `TZ_k(x)`: zero bits from bit 0 up, at most `k`; `TZ_k(0) = k` (R14, D24). -/
def tz : Nat → Nat → Nat
  | 0, _ => 0
  | k + 1, x => if x % 2 = 1 then 0 else tz k (x / 2) + 1

/-- `POP_k(x)`: the number of one bits among the low `k` (R14). -/
def pop : Nat → Nat → Nat
  | 0, _ => 0
  | k + 1, x => x % 2 + pop k (x / 2)

/-- The low `k` bits of `x` in reverse order (R275). -/
def reverseBits : Nat → Nat → Nat
  | 0, _ => 0
  | k + 1, x => x % 2 * 2 ^ k + reverseBits k (x / 2)

/-- The low `n` bytes of `x` in reverse order (R276). -/
def reverseBytes : Nat → Nat → Nat
  | 0, _ => 0
  | n + 1, x => x % 256 * 256 ^ n + reverseBytes n (x / 256)

/-- `MulX_k(x, y)`: the exact product as the ordered pair (hi, lo) (R14). -/
def mulX (k x y : Nat) : Nat × Nat := (x * y / 2 ^ k, trunc k (x * y))

/-- `Div_k(hi, lo, y)` (R14): divide-by-zero, then quotient-overflow, else quotient and remainder of `{Hi: hi, Lo: lo}`. -/
def divK (k hi lo y : Nat) : Except FaultCode (Nat × Nat) :=
  if y = 0 then .error .divideByZero
  else if y ≤ hi then .error .quotientOverflow
  else .ok (pair k hi lo / y, pair k hi lo % y)

/-- `n` with limb `j` replaced by `x` (R63). -/
def replaceLimb (n j x : Nat) : Nat :=
  n % 2 ^ (64 * j) + x * 2 ^ (64 * j) + n / 2 ^ (64 * (j + 1)) * 2 ^ (64 * (j + 1))

end Sys2Proof.Machine
end

