-- ==== Sys2Proof/Machine/Flags.lean ====
section
/-! DEFINITION. Every flag computation: the carry and borrow of spec/43_additive.md, which CF carries, and the compare and
Boolean results of spec/41_predicates.md, which go to S registers since the block has no condition code (R33). -/

namespace Sys2Proof.Machine

/-- `AddC_k(x, y, c)`: the wrapped sum and the carry out (R14, R181). -/
def addC (k x y c : Nat) : Nat × Nat := (trunc k (x + y + c), (x + y + c) / 2 ^ k)

/-- `SubB_k(x, y, b)`: the wrapped difference and the borrow out (R14, R183). -/
def subB (k x y b : Nat) : Nat × Nat := (truncInt k ((x : Int) - y - b), if x < y + b then 1 else 0)

/-- CF as the number the rules add and subtract. -/
def flagNat (cf : Bool) : Nat := cf.toNat

/-- A carry or borrow of 0 or 1 as CF. -/
def flagOf (c : Nat) : Bool := c != 0

/-- A Boolean result: 1 for true, 0 for false (R140). -/
def boolResult (b : Bool) : BitVec 64 := if b then 1 else 0

/-- A compare result: sext_64 of -1, 0 or +1 (R140). -/
def compareResult (u v : Nat) : BitVec 64 :=
  if u < v then 0xFFFFFFFFFFFFFFFF else if u = v then 0 else 1

/-- A count, zero-extended to 64 bits (R95). -/
def countResult (n : Nat) : BitVec 64 := BitVec.ofNat 64 n

end Sys2Proof.Machine
end

