-- ==== Sys2Proof/Machine/Ops.lean ====
section
/-! DEFINITION. The named operations over the registers, and fault entry as one shared operation (spec/10_state.md,
spec/60_exceptions.md R306). There is no return from a fault (R308): reset is the only way out, `State.resetInput`. -/

namespace Sys2Proof.Machine

/-- The instance width of a V file. -/
def VFile.width : VFile → Width
  | .w512 _ => .w512
  | .w1024 _ => .w1024

/-- The value of a V register, a natural below 2^W (R31). -/
def VFile.value : VFile → Reg → Nat
  | .w512 f, r => (f.get r).value.toNat
  | .w1024 f, r => (f.get r).value.toNat

/-- The written bit of limb `j` of a V register (R40); a limb it does not have is not written. -/
def VFile.limbWritten : VFile → Reg → Nat → Bool
  | .w512 f, r, j => (f.get r).written.toList.getD j false
  | .w1024 f, r, j => (f.get r).written.toList.getD j false

/-- A V register after a command's write: all W bits, every limb written (R40, R95). -/
def VReg.put {l : Nat} (n : Nat) : VReg l :=
  { value := BitVec.ofNat (64 * l) n, written := Vector.replicate l true }

/-- A V register after a host write of limb `j`: that limb and its written bit, nothing else (R63). -/
def VReg.putLimb {l : Nat} (r : VReg l) (j : Nat) (x : Limb) : VReg l :=
  { value := BitVec.ofNat (64 * l) (replaceLimb r.value.toNat j x.toNat), written := r.written.setIfInBounds j true }

/-- `V[r] <- n`, wrapped to W bits by the register's width. -/
def VFile.put : VFile → Reg → Nat → VFile
  | .w512 f, r, n => .w512 (f.set r.val (VReg.put n) r.isLt)
  | .w1024 f, r, n => .w1024 (f.set r.val (VReg.put n) r.isLt)

/-- `V[r][64j+63:64j] <- x`. -/
def VFile.putLimb : VFile → Reg → Nat → Limb → VFile
  | .w512 f, r, j, x => .w512 (f.set r.val ((f.get r).putLimb j x) r.isLt)
  | .w1024 f, r, j, x => .w1024 (f.set r.val ((f.get r).putLimb j x) r.isLt)

/-- P_W of the instance (R2). -/
def State.width (s : State) : Width := s.v.width

/-- W in bits. -/
def State.bits (s : State) : Nat := s.width.bits

/-- H = W/2. -/
def State.half (s : State) : Nat := s.width.half

/-- `V[r]`, read. -/
def State.vreg (s : State) (r : Reg) : Nat := s.v.value r

/-- `S[r]`, read. -/
def State.sreg (s : State) (r : Reg) : BitVec 64 := (s.s.get r).value

/-- The written bit of limb `j` of V[r] (R40). -/
def State.vWritten (s : State) (r : Reg) (j : Nat) : Bool := s.v.limbWritten r j

/-- The written bit of S[r] (R40). -/
def State.sWritten (s : State) (r : Reg) : Bool := (s.s.get r).written

/-- `V[r] <- n` by a command (R95): all W bits, every limb becomes written. -/
def State.setV (s : State) (r : Reg) (n : Nat) : State := { s with v := s.v.put r n }

/-- `V[r][64j+63:64j] <- x` by the host (R63). -/
def State.setLimb (s : State) (r : Reg) (j : Nat) (x : Limb) : State := { s with v := s.v.putLimb r j x }

/-- `S[r] <- x`, by a command or the host: all 64 bits, and S[r] becomes written (R64, R95). -/
def State.setS (s : State) (r : Reg) (x : BitVec 64) : State :=
  { s with s := s.s.set r.val { value := x, written := true } r.isLt }

/-- `CF <- b` (R33). -/
def State.setCF (s : State) (b : Bool) : State := { s with cf := b }

/-- BUSY, CR[1] (R34). -/
def State.busy (s : State) : Bool :=
  match s.run with
  | .busy _ _ => true
  | .idle | .faulted _ => false

/-- FLT, CR[2] (R34). -/
def State.flt (s : State) : Bool :=
  match s.run with
  | .faulted _ => true
  | .idle | .busy _ _ => false

/-- The numeric code of a fault (R35, R300). -/
def FaultCode.number : FaultCode → Nat
  | .divideByZero => 1
  | .quotientOverflow => 2
  | .illegalCommand => 3

/-- FC, CR[7:4]: 0 when no fault is recorded (R35). -/
def State.fc (s : State) : Nat :=
  match s.run with
  | .faulted code => code.number
  | .idle | .busy _ _ => 0

/-- The 64-bit CMD value of the command in flight. With none in flight there is no such value and FCMD stands for itself,
so that `raise` then leaves FCMD as it is (R36; assumption log 8). -/
def State.cmdInFlight (s : State) : BitVec 64 :=
  match s.run with
  | .busy c _ => c
  | .idle | .faulted _ => s.fcmd

/-- FAULT ENTRY (R306), the one way a command takes a fault: FC, FLT = 1, FCMD = the CMD value, BUSY = 0, FAULTED. Nothing
else changes: no destination, not CF, no written bit. -/
def State.raise (s : State) (code : FaultCode) : State :=
  { s with run := .faulted code, fcmd := s.cmdInFlight }

/-- The end of a command that completes: BUSY = 0, IDLE (R41). -/
def State.complete (s : State) : State := { s with run := .idle }

/-- RESET, from any state (R340): every field of R42 at its reset value, a command in flight abandoned. The width is the
instance's own, and the host's stream, its answers, the marks of the run and the draw counter are not the block's and
stay (assumption log 12). The model's run goes on over a reset, which clears FLT and FC; whether a reset ends the run of
R308, in which a fault is never cleared, the spec leaves open: DESIGN CHOICE, unsafe (assumption log 17). -/
def State.resetInput (s : State) : State :=
  { State.resetAt s.width with
    refusedMark := s.refusedMark
    unwrittenMark := s.unwrittenMark
    busyAtLastRead := s.busyAtLastRead
    host := s.host
    answers := s.answers
    draws := s.draws }

/-- Ends a command that writes nothing but, perhaps, CF in `s`. -/
def State.retire (s : State) : Host.Outcome State Fault Refusal := .next s.complete

/-- Ends a command with one V destination. -/
def State.retireV (s : State) (rd : Reg) (x : Nat) : Host.Outcome State Fault Refusal := (s.setV rd x).retire

/-- Ends a command with two V destinations, rd and re (R96). -/
def State.retireVV (s : State) (rd re : Reg) (x y : Nat) : Host.Outcome State Fault Refusal :=
  ((s.setV rd x).setV re y).retire

/-- Ends a command with one S destination. -/
def State.retireS (s : State) (rd : Reg) (x : BitVec 64) : Host.Outcome State Fault Refusal := (s.setS rd x).retire

/-- Ends a command in a fault (R306). -/
def State.takeFault (s : State) (code : FaultCode) : Host.Outcome State Fault Refusal := .next (s.raise code)

end Sys2Proof.Machine
end

