-- ==== Sys2Proof/Machine/Operands.lean ====
section
/-! DEFINITION. Every operand form of spec/30_encoding.md R94, and what each command reads (R310) and writes (R93, R96). -/

namespace Sys2Proof.Machine

/-- A full V operand: all W bits of V[r]. -/
def State.full (s : State) (r : Reg) : Nat := s.vreg r

/-- A low-bits operand: `V[r][k-1:0]`, a narrow divisor or a FROM-k source. -/
def State.low (s : State) (k : Nat) (r : Reg) : Nat := trunc k (s.vreg r)

/-- A half-width operand: `V[r][H-1:0]`, to be used zero-extended. -/
def State.halfOperand (s : State) (r : Reg) : Nat := trunc s.half (s.vreg r)

/-- A shift amount: `nat(S[r])`, unsigned. -/
def State.shiftAmount (s : State) (r : Reg) : Nat := (s.sreg r).toNat

/-- A bit index: `int64(S[r])`, signed. -/
def State.bitIndex (s : State) (r : Reg) : Int := (s.sreg r).toInt

/-- The From64 operand: `S[r]`, unsigned. -/
def State.from64Operand (s : State) (r : Reg) : Nat := (s.sreg r).toNat

/-- How many low limbs of a V source a command reads (R310): all L, the low half, or the low `k` limbs. -/
inductive Extent where
  | full
  | half
  | limbs (k : Nat)
deriving DecidableEq, Repr

/-- The number of limbs an extent takes at width `w`. -/
def Extent.count (w : Width) : Extent → Nat
  | .full => w.limbs
  | .half => w.limbs / 2
  | .limbs k => k

/-- One source operand of a command. -/
inductive Source where
  | v (r : Reg) (extent : Extent)
  | s (r : Reg)
deriving DecidableEq, Repr

/-- What each command reads, by its rule and R94. CF, which ADDC and SUBB read, has no written bit. -/
def sourcesOf : Instr → List Source
  | .nop => []
  | .clc => []
  | .stc => []
  | .zero _ => []
  | .one _ => []
  | .max _ => []
  | .from64 _ ra => [.s ra]
  | .from128 _ ra => [.v ra (.limbs 2)]
  | .from256 _ ra => [.v ra (.limbs 4)]
  | .from512 _ ra => [.v ra (.limbs 8)]
  | .isZero _ ra => [.v ra .full]
  | .eq _ ra rb => [.v ra .full, .v rb .full]
  | .cmp _ ra rb => [.v ra .full, .v rb .full]
  | .eqH _ ra rb => [.v ra .full, .v rb .half]
  | .cmpH _ ra rb => [.v ra .full, .v rb .half]
  | .not _ ra => [.v ra .full]
  | .and _ ra rb => [.v ra .full, .v rb .full]
  | .or _ ra rb => [.v ra .full, .v rb .full]
  | .xor _ ra rb => [.v ra .full, .v rb .full]
  | .andNot _ ra rb => [.v ra .full, .v rb .full]
  | .andH _ ra rb => [.v ra .full, .v rb .half]
  | .orH _ ra rb => [.v ra .full, .v rb .half]
  | .xorH _ ra rb => [.v ra .full, .v rb .half]
  | .andNotH _ ra rb => [.v ra .full, .v rb .half]
  | .add _ ra rb => [.v ra .full, .v rb .full]
  | .addc _ ra rb => [.v ra .full, .v rb .full]
  | .sub _ ra rb => [.v ra .full, .v rb .full]
  | .subb _ ra rb => [.v ra .full, .v rb .full]
  | .addH _ ra rb => [.v ra .full, .v rb .half]
  | .subH _ ra rb => [.v ra .full, .v rb .half]
  | .mul _ ra rb => [.v ra .full, .v rb .full]
  | .mulH _ ra rb => [.v ra .full, .v rb .half]
  | .mulx _ _ ra rb => [.v ra .full, .v rb .full]
  | .quoRem _ _ ra rb => [.v ra .full, .v rb .full]
  | .quoRem64 _ _ ra rb => [.v ra .full, .v rb (.limbs 1)]
  | .quoRem128 _ _ ra rb => [.v ra .full, .v rb (.limbs 2)]
  | .quoRem256 _ _ ra rb => [.v ra .full, .v rb (.limbs 4)]
  | .quoRem512 _ _ ra rb => [.v ra .full, .v rb (.limbs 8)]
  | .divx _ _ ra rb rc => [.v ra .full, .v rb .full, .v rc .full]
  | .lsh _ ra rb => [.v ra .full, .s rb]
  | .rsh _ ra rb => [.v ra .full, .s rb]
  | .bitLen _ ra => [.v ra .full]
  | .clz _ ra => [.v ra .full]
  | .ctz _ ra => [.v ra .full]
  | .popcnt _ ra => [.v ra .full]
  | .bit _ ra rb => [.v ra .full, .s rb]
  | .rev _ ra => [.v ra .full]
  | .revB _ ra => [.v ra .full]

/-- The V registers a command writes when it completes (R93, R96). -/
def vDestinations : Instr → List Reg
  | .nop => []
  | .clc => []
  | .stc => []
  | .zero rd => [rd]
  | .one rd => [rd]
  | .max rd => [rd]
  | .from64 rd _ => [rd]
  | .from128 rd _ => [rd]
  | .from256 rd _ => [rd]
  | .from512 rd _ => [rd]
  | .isZero _ _ => []
  | .eq _ _ _ => []
  | .cmp _ _ _ => []
  | .eqH _ _ _ => []
  | .cmpH _ _ _ => []
  | .not rd _ => [rd]
  | .and rd _ _ => [rd]
  | .or rd _ _ => [rd]
  | .xor rd _ _ => [rd]
  | .andNot rd _ _ => [rd]
  | .andH rd _ _ => [rd]
  | .orH rd _ _ => [rd]
  | .xorH rd _ _ => [rd]
  | .andNotH rd _ _ => [rd]
  | .add rd _ _ => [rd]
  | .addc rd _ _ => [rd]
  | .sub rd _ _ => [rd]
  | .subb rd _ _ => [rd]
  | .addH rd _ _ => [rd]
  | .subH rd _ _ => [rd]
  | .mul rd _ _ => [rd]
  | .mulH rd _ _ => [rd]
  | .mulx rd re _ _ => [rd, re]
  | .quoRem rd re _ _ => [rd, re]
  | .quoRem64 rd re _ _ => [rd, re]
  | .quoRem128 rd re _ _ => [rd, re]
  | .quoRem256 rd re _ _ => [rd, re]
  | .quoRem512 rd re _ _ => [rd, re]
  | .divx rd re _ _ _ => [rd, re]
  | .lsh rd _ _ => [rd]
  | .rsh rd _ _ => [rd]
  | .bitLen _ _ => []
  | .clz _ _ => []
  | .ctz _ _ => []
  | .popcnt _ _ => []
  | .bit _ _ _ => []
  | .rev rd _ => [rd]
  | .revB rd _ => [rd]

/-- The S registers a command writes when it completes (R93). -/
def sDestinations : Instr → List Reg
  | .nop => []
  | .clc => []
  | .stc => []
  | .zero _ => []
  | .one _ => []
  | .max _ => []
  | .from64 _ _ => []
  | .from128 _ _ => []
  | .from256 _ _ => []
  | .from512 _ _ => []
  | .isZero rd _ => [rd]
  | .eq rd _ _ => [rd]
  | .cmp rd _ _ => [rd]
  | .eqH rd _ _ => [rd]
  | .cmpH rd _ _ => [rd]
  | .not _ _ => []
  | .and _ _ _ => []
  | .or _ _ _ => []
  | .xor _ _ _ => []
  | .andNot _ _ _ => []
  | .andH _ _ _ => []
  | .orH _ _ _ => []
  | .xorH _ _ _ => []
  | .andNotH _ _ _ => []
  | .add _ _ _ => []
  | .addc _ _ _ => []
  | .sub _ _ _ => []
  | .subb _ _ _ => []
  | .addH _ _ _ => []
  | .subH _ _ _ => []
  | .mul _ _ _ => []
  | .mulH _ _ _ => []
  | .mulx _ _ _ _ => []
  | .quoRem _ _ _ _ => []
  | .quoRem64 _ _ _ _ => []
  | .quoRem128 _ _ _ _ => []
  | .quoRem256 _ _ _ _ => []
  | .quoRem512 _ _ _ _ => []
  | .divx _ _ _ _ _ => []
  | .lsh _ _ _ => []
  | .rsh _ _ _ => []
  | .bitLen rd _ => [rd]
  | .clz rd _ => [rd]
  | .ctz rd _ => [rd]
  | .popcnt rd _ => [rd]
  | .bit rd _ _ => [rd]
  | .rev _ _ => []
  | .revB _ _ => []

/-- The commands that write CF: ADDC, SUBB, CLC and STC, and no other (R33). -/
def writesCF : Instr → Bool
  | .nop => false
  | .clc => true
  | .stc => true
  | .zero _ => false
  | .one _ => false
  | .max _ => false
  | .from64 _ _ => false
  | .from128 _ _ => false
  | .from256 _ _ => false
  | .from512 _ _ => false
  | .isZero _ _ => false
  | .eq _ _ _ => false
  | .cmp _ _ _ => false
  | .eqH _ _ _ => false
  | .cmpH _ _ _ => false
  | .not _ _ => false
  | .and _ _ _ => false
  | .or _ _ _ => false
  | .xor _ _ _ => false
  | .andNot _ _ _ => false
  | .andH _ _ _ => false
  | .orH _ _ _ => false
  | .xorH _ _ _ => false
  | .andNotH _ _ _ => false
  | .add _ _ _ => false
  | .addc _ _ _ => true
  | .sub _ _ _ => false
  | .subb _ _ _ => true
  | .addH _ _ _ => false
  | .subH _ _ _ => false
  | .mul _ _ _ => false
  | .mulH _ _ _ => false
  | .mulx _ _ _ _ => false
  | .quoRem _ _ _ _ => false
  | .quoRem64 _ _ _ _ => false
  | .quoRem128 _ _ _ _ => false
  | .quoRem256 _ _ _ _ => false
  | .quoRem512 _ _ _ _ => false
  | .divx _ _ _ _ _ => false
  | .lsh _ _ _ => false
  | .rsh _ _ _ => false
  | .bitLen _ _ => false
  | .clz _ _ => false
  | .ctz _ _ => false
  | .popcnt _ _ => false
  | .bit _ _ _ => false
  | .rev _ _ => false
  | .revB _ _ => false

/-- Every limb the source needs is written (R40). -/
def State.sourceWritten (s : State) : Source → Bool
  | .v r e => (List.range (e.count s.width)).all (fun j => s.vWritten r j)
  | .s r => s.sWritten r

/-- Sets the UNWRITTEN_READ mark of the run if some source is not written (R310; assumption log 1). It changes no state of
the block. -/
def State.noteReads (s : State) (srcs : List Source) : State :=
  { s with unwrittenMark := s.unwrittenMark || !srcs.all s.sourceWritten }

end Sys2Proof.Machine
end

