-- ==== Sys2Proof/Machine/Additive.lean ====
section
/-! DEFINITION. Additive commands, spec/43_additive.md R180-R185. Only ADDC and SUBB read or write CF. -/

namespace Sys2Proof.Machine

/-- ADD (R180): the sum of `AddC_W(u, v, 0)`, its carry thrown away. -/
def execAdd (rd ra rb : Reg) (s : State) : Host.Outcome State Fault Refusal :=
  s.retireV rd (addC s.bits (s.full ra) (s.full rb) 0).1

/-- ADDC (R181): CF in, CF out. -/
def execAddc (rd ra rb : Reg) (s : State) : Host.Outcome State Fault Refusal :=
  let r := addC s.bits (s.full ra) (s.full rb) (flagNat s.cf)
  (s.setCF (flagOf r.2)).retireV rd r.1

/-- SUB (R182): the difference of `SubB_W(u, v, 0)`, its borrow discarded. -/
def execSub (rd ra rb : Reg) (s : State) : Host.Outcome State Fault Refusal :=
  s.retireV rd (subB s.bits (s.full ra) (s.full rb) 0).1

/-- SUBB (R183): borrow in by CF, borrow out to CF. -/
def execSubb (rd ra rb : Reg) (s : State) : Host.Outcome State Fault Refusal :=
  let r := subB s.bits (s.full ra) (s.full rb) (flagNat s.cf)
  (s.setCF (flagOf r.2)).retireV rd r.1

/-- ADD.H (R184): the carry out of the high half is discarded (D33). -/
def execAddH (rd ra rb : Reg) (s : State) : Host.Outcome State Fault Refusal :=
  s.retireV rd (addC s.bits (s.full ra) (s.halfOperand rb) 0).1

/-- SUB.H (R185): the borrow out of the high half is discarded (D33). -/
def execSubH (rd ra rb : Reg) (s : State) : Host.Outcome State Fault Refusal :=
  s.retireV rd (subB s.bits (s.full ra) (s.halfOperand rb) 0).1

end Sys2Proof.Machine
end

