-- ==== Sys2Proof/Machine/Bitwise.lean ====
section
/-! DEFINITION. Bitwise commands, spec/42_bitwise.md R160-R169. CF is unchanged. The .H forms compute the full-width operation
with the zero-extended half operand (R160), so AND.H clears the high half and the others keep it (C1, D25; assumption log 11). -/

namespace Sys2Proof.Machine

/-- NOT (R161): `Max_W - V[ra]`. -/
def execNot (rd ra : Reg) (s : State) : Host.Outcome State Fault Refusal :=
  s.retireV rd (complement s.bits (s.full ra))

/-- AND (R162). -/
def execAnd (rd ra rb : Reg) (s : State) : Host.Outcome State Fault Refusal :=
  s.retireV rd (s.full ra &&& s.full rb)

/-- OR (R163). -/
def execOr (rd ra rb : Reg) (s : State) : Host.Outcome State Fault Refusal := s.retireV rd (s.full ra ||| s.full rb)

/-- XOR (R164). -/
def execXor (rd ra rb : Reg) (s : State) : Host.Outcome State Fault Refusal :=
  s.retireV rd (s.full ra ^^^ s.full rb)

/-- ANDNOT (R165). -/
def execAndNot (rd ra rb : Reg) (s : State) : Host.Outcome State Fault Refusal :=
  s.retireV rd (s.full ra &&& complement s.bits (s.full rb))

/-- AND.H (R166, R160). -/
def execAndH (rd ra rb : Reg) (s : State) : Host.Outcome State Fault Refusal :=
  s.retireV rd (s.full ra &&& s.halfOperand rb)

/-- OR.H (R167, R160). -/
def execOrH (rd ra rb : Reg) (s : State) : Host.Outcome State Fault Refusal :=
  s.retireV rd (s.full ra ||| s.halfOperand rb)

/-- XOR.H (R168, R160). -/
def execXorH (rd ra rb : Reg) (s : State) : Host.Outcome State Fault Refusal :=
  s.retireV rd (s.full ra ^^^ s.halfOperand rb)

/-- ANDNOT.H (R169, R160). -/
def execAndNotH (rd ra rb : Reg) (s : State) : Host.Outcome State Fault Refusal :=
  s.retireV rd (s.full ra &&& complement s.bits (s.halfOperand rb))

end Sys2Proof.Machine
end

