-- ==== Sys2Proof/Machine/Control.lean ====
section
/-! DEFINITION. Control and constructor commands, spec/40_control_constructors.md R120-R129. -/

namespace Sys2Proof.Machine

/-- NOP (R120): nothing but the end of the command. -/
def execNop (s : State) : Host.Outcome State Fault Refusal := s.retire

/-- CLC (R121): CF <- 0. -/
def execClc (s : State) : Host.Outcome State Fault Refusal := (s.setCF false).retire

/-- STC (R122): CF <- 1. -/
def execStc (s : State) : Host.Outcome State Fault Refusal := (s.setCF true).retire

/-- ZERO (R123). -/
def execZero (rd : Reg) (s : State) : Host.Outcome State Fault Refusal := s.retireV rd 0

/-- ONE (R124). -/
def execOne (rd : Reg) (s : State) : Host.Outcome State Fault Refusal := s.retireV rd 1

/-- MAX (R125): 2^W - 1. -/
def execMax (rd : Reg) (s : State) : Host.Outcome State Fault Refusal := s.retireV rd (maxOf s.bits)

/-- FROM64 (R126): `zext_W(S[ra])`, unsigned. -/
def execFrom64 (rd ra : Reg) (s : State) : Host.Outcome State Fault Refusal := s.retireV rd (s.from64Operand ra)

/-- FROM128 (R127). -/
def execFrom128 (rd ra : Reg) (s : State) : Host.Outcome State Fault Refusal := s.retireV rd (s.low 128 ra)

/-- FROM256 (R128). -/
def execFrom256 (rd ra : Reg) (s : State) : Host.Outcome State Fault Refusal := s.retireV rd (s.low 256 ra)

/-- FROM512 (R129): at W = 1024 only; at W = 512 the opcode is illegal (R100 step 4), which the decoder decides first
(assumption log 9). -/
def execFrom512 (rd ra : Reg) (s : State) : Host.Outcome State Fault Refusal :=
  if s.width = .w1024 then s.retireV rd (s.low 512 ra) else s.takeFault .illegalCommand

end Sys2Proof.Machine
end

