-- ==== Sys2Proof/Machine/Division.lean ====
section
/-! DEFINITION. Division commands, spec/45_division.md R220-R225. CF is unchanged; a fault writes no destination (R306). -/

namespace Sys2Proof.Machine

/-- QUOREM and its narrowing forms, once (R220-R224): divisor 0 raises DIVIDE_BY_ZERO, else the quotient goes to rd and the
remainder, zero-extended, to re. -/
def State.quoRemBy (s : State) (rd re : Reg) (u v : Nat) : Host.Outcome State Fault Refusal :=
  if rd = re then s.takeFault .illegalCommand
  else if v = 0 then s.takeFault .divideByZero
  else s.retireVV rd re (u / v) (u % v)

/-- QUOREM (R220). -/
def execQuoRem (rd re ra rb : Reg) (s : State) : Host.Outcome State Fault Refusal :=
  s.quoRemBy rd re (s.full ra) (s.full rb)

/-- QUOREM.64 (R221): the divisor is `V[rb][63:0]`. -/
def execQuoRem64 (rd re ra rb : Reg) (s : State) : Host.Outcome State Fault Refusal :=
  s.quoRemBy rd re (s.full ra) (s.low 64 rb)

/-- QUOREM.128 (R222): the divisor is `V[rb][127:0]`. -/
def execQuoRem128 (rd re ra rb : Reg) (s : State) : Host.Outcome State Fault Refusal :=
  s.quoRemBy rd re (s.full ra) (s.low 128 rb)

/-- QUOREM.256 (R223): the divisor is `V[rb][255:0]`. -/
def execQuoRem256 (rd re ra rb : Reg) (s : State) : Host.Outcome State Fault Refusal :=
  s.quoRemBy rd re (s.full ra) (s.low 256 rb)

/-- QUOREM.512 (R224): the divisor is `V[rb][511:0]`; at W = 1024 only, at W = 512 the opcode is illegal (R100 step 4;
assumption log 9). -/
def execQuoRem512 (rd re ra rb : Reg) (s : State) : Host.Outcome State Fault Refusal :=
  if s.width = .w1024 then s.quoRemBy rd re (s.full ra) (s.low 512 rb) else s.takeFault .illegalCommand

/-- DIVX (R225): `Div_W(V[ra], V[rb], V[rc])`; y = 0 before y ≤ hi (R305, D27); quo to rd, rem to re. -/
def execDivx (rd re ra rb rc : Reg) (s : State) : Host.Outcome State Fault Refusal :=
  if rd = re then s.takeFault .illegalCommand
  else match divK s.bits (s.full ra) (s.full rb) (s.full rc) with
    | .error code => s.takeFault code
    | .ok r => s.retireVV rd re r.1 r.2

end Sys2Proof.Machine
end

