-- ==== Sys2Proof/Machine/Introspection.lean ====
section
/-! DEFINITION. Bit-introspection commands, spec/47_introspection.md R270-R276. CF is unchanged. The values at 0 are D24's (assumption log 10). -/

namespace Sys2Proof.Machine

/-- BITLEN (R270). -/
def execBitLen (rd ra : Reg) (s : State) : Host.Outcome State Fault Refusal :=
  s.retireS rd (countResult (len (s.full ra)))

/-- CLZ (R271). -/
def execClz (rd ra : Reg) (s : State) : Host.Outcome State Fault Refusal :=
  s.retireS rd (countResult (lz s.bits (s.full ra)))

/-- CTZ (R272). -/
def execCtz (rd ra : Reg) (s : State) : Host.Outcome State Fault Refusal :=
  s.retireS rd (countResult (tz s.bits (s.full ra)))

/-- POPCNT (R273). -/
def execPopcnt (rd ra : Reg) (s : State) : Host.Outcome State Fault Refusal :=
  s.retireS rd (countResult (pop s.bits (s.full ra)))

/-- BIT (R274): limb n ÷ 64, bit n mod 64; 0 for an index outside [0, W). -/
def execBit (rd ra rb : Reg) (s : State) : Host.Outcome State Fault Refusal :=
  let n := s.bitIndex rb
  s.retireS rd
    (if n < 0 ∨ (s.bits : Int) ≤ n then 0
     else countResult (bitOf (limbOf (s.full ra) (n.toNat / 64)) (n.toNat % 64)))

/-- REV (R275). -/
def execRev (rd ra : Reg) (s : State) : Host.Outcome State Fault Refusal :=
  s.retireV rd (reverseBits s.bits (s.full ra))

/-- REVB (R276). -/
def execRevB (rd ra : Reg) (s : State) : Host.Outcome State Fault Refusal :=
  s.retireV rd (reverseBytes (s.bits / 8) (s.full ra))

end Sys2Proof.Machine
end

