-- ==== Sys2Proof/Machine/Multiplicative.lean ====
section
/-! DEFINITION. Multiplicative commands, spec/44_multiplicative.md R200-R202. CF is neither read nor written. -/

namespace Sys2Proof.Machine

/-- MUL (R200): wraps mod 2^W. -/
def execMul (rd ra rb : Reg) (s : State) : Host.Outcome State Fault Refusal :=
  s.retireV rd (trunc s.bits (s.full ra * s.full rb))

/-- MUL.H (R201): wraps mod 2^W. -/
def execMulH (rd ra rb : Reg) (s : State) : Host.Outcome State Fault Refusal :=
  s.retireV rd (trunc s.bits (s.full ra * s.halfOperand rb))

/-- MULX (R202): lo to rd, hi to re. rd = re is illegal, which the decoder decides first (R96; assumption log 9). -/
def execMulx (rd re ra rb : Reg) (s : State) : Host.Outcome State Fault Refusal :=
  if rd = re then s.takeFault .illegalCommand
  else
    let p := mulX s.bits (s.full ra) (s.full rb)
    s.retireVV rd re p.2 p.1

end Sys2Proof.Machine
end

