-- ==== Sys2Proof/Machine/Predicates.lean ====
section
/-! DEFINITION. Predicate and compare commands, spec/41_predicates.md R140-R145. The result goes to S[rd]; CF is unchanged. -/

namespace Sys2Proof.Machine

/-- ISZERO (R141). -/
def execIsZero (rd ra : Reg) (s : State) : Host.Outcome State Fault Refusal :=
  s.retireS rd (boolResult (s.full ra == 0))

/-- EQ (R142). -/
def execEq (rd ra rb : Reg) (s : State) : Host.Outcome State Fault Refusal :=
  s.retireS rd (boolResult (s.full ra == s.full rb))

/-- CMP (R143), unsigned. -/
def execCmp (rd ra rb : Reg) (s : State) : Host.Outcome State Fault Refusal :=
  s.retireS rd (compareResult (s.full ra) (s.full rb))

/-- EQ.H (R144): against `zext_W(V[rb][H-1:0])`. -/
def execEqH (rd ra rb : Reg) (s : State) : Host.Outcome State Fault Refusal :=
  s.retireS rd (boolResult (s.full ra == s.halfOperand rb))

/-- CMP.H (R145): against `zext_W(V[rb][H-1:0])`. -/
def execCmpH (rd ra rb : Reg) (s : State) : Host.Outcome State Fault Refusal :=
  s.retireS rd (compareResult (s.full ra) (s.halfOperand rb))

end Sys2Proof.Machine
end

