-- ==== Sys2Proof/Machine/Shift.lean ====
section
/-! DEFINITION. Shift commands, spec/46_shift.md R250, R251. CF is unchanged; the amount is unsigned and never taken mod anything. -/

namespace Sys2Proof.Machine

/-- LSH (R250). -/
def execLsh (rd ra rb : Reg) (s : State) : Host.Outcome State Fault Refusal :=
  let n := s.shiftAmount rb
  s.retireV rd (if n < s.bits then trunc s.bits (s.full ra * 2 ^ n) else 0)

/-- RSH (R251), logical. -/
def execRsh (rd ra rb : Reg) (s : State) : Host.Outcome State Fault Refusal :=
  let n := s.shiftAmount rb
  s.retireV rd (if n < s.bits then s.full ra / 2 ^ n else 0)

end Sys2Proof.Machine
end

