-- ==== Sys2Proof/Machine/Dispatch.lean ====
section
/-! DEFINITION. exec: one arm per constructor of Instr, each one direct call of its meaning. -/

namespace Sys2Proof.Machine

def exec (i : Instr) (s : State) : Host.Outcome State Fault Refusal :=
  match i with
  | .nop => Sys2Proof.Machine.execNop s
  | .clc => Sys2Proof.Machine.execClc s
  | .stc => Sys2Proof.Machine.execStc s
  | .zero rd => Sys2Proof.Machine.execZero rd s
  | .one rd => Sys2Proof.Machine.execOne rd s
  | .max rd => Sys2Proof.Machine.execMax rd s
  | .from64 rd ra => Sys2Proof.Machine.execFrom64 rd ra s
  | .from128 rd ra => Sys2Proof.Machine.execFrom128 rd ra s
  | .from256 rd ra => Sys2Proof.Machine.execFrom256 rd ra s
  | .from512 rd ra => Sys2Proof.Machine.execFrom512 rd ra s
  | .isZero rd ra => Sys2Proof.Machine.execIsZero rd ra s
  | .eq rd ra rb => Sys2Proof.Machine.execEq rd ra rb s
  | .cmp rd ra rb => Sys2Proof.Machine.execCmp rd ra rb s
  | .eqH rd ra rb => Sys2Proof.Machine.execEqH rd ra rb s
  | .cmpH rd ra rb => Sys2Proof.Machine.execCmpH rd ra rb s
  | .not rd ra => Sys2Proof.Machine.execNot rd ra s
  | .and rd ra rb => Sys2Proof.Machine.execAnd rd ra rb s
  | .or rd ra rb => Sys2Proof.Machine.execOr rd ra rb s
  | .xor rd ra rb => Sys2Proof.Machine.execXor rd ra rb s
  | .andNot rd ra rb => Sys2Proof.Machine.execAndNot rd ra rb s
  | .andH rd ra rb => Sys2Proof.Machine.execAndH rd ra rb s
  | .orH rd ra rb => Sys2Proof.Machine.execOrH rd ra rb s
  | .xorH rd ra rb => Sys2Proof.Machine.execXorH rd ra rb s
  | .andNotH rd ra rb => Sys2Proof.Machine.execAndNotH rd ra rb s
  | .add rd ra rb => Sys2Proof.Machine.execAdd rd ra rb s
  | .addc rd ra rb => Sys2Proof.Machine.execAddc rd ra rb s
  | .sub rd ra rb => Sys2Proof.Machine.execSub rd ra rb s
  | .subb rd ra rb => Sys2Proof.Machine.execSubb rd ra rb s
  | .addH rd ra rb => Sys2Proof.Machine.execAddH rd ra rb s
  | .subH rd ra rb => Sys2Proof.Machine.execSubH rd ra rb s
  | .mul rd ra rb => Sys2Proof.Machine.execMul rd ra rb s
  | .mulH rd ra rb => Sys2Proof.Machine.execMulH rd ra rb s
  | .mulx rd re ra rb => Sys2Proof.Machine.execMulx rd re ra rb s
  | .quoRem rd re ra rb => Sys2Proof.Machine.execQuoRem rd re ra rb s
  | .quoRem64 rd re ra rb => Sys2Proof.Machine.execQuoRem64 rd re ra rb s
  | .quoRem128 rd re ra rb => Sys2Proof.Machine.execQuoRem128 rd re ra rb s
  | .quoRem256 rd re ra rb => Sys2Proof.Machine.execQuoRem256 rd re ra rb s
  | .quoRem512 rd re ra rb => Sys2Proof.Machine.execQuoRem512 rd re ra rb s
  | .divx rd re ra rb rc => Sys2Proof.Machine.execDivx rd re ra rb rc s
  | .lsh rd ra rb => Sys2Proof.Machine.execLsh rd ra rb s
  | .rsh rd ra rb => Sys2Proof.Machine.execRsh rd ra rb s
  | .bitLen rd ra => Sys2Proof.Machine.execBitLen rd ra s
  | .clz rd ra => Sys2Proof.Machine.execClz rd ra s
  | .ctz rd ra => Sys2Proof.Machine.execCtz rd ra s
  | .popcnt rd ra => Sys2Proof.Machine.execPopcnt rd ra s
  | .bit rd ra rb => Sys2Proof.Machine.execBit rd ra rb s
  | .rev rd ra => Sys2Proof.Machine.execRev rd ra s
  | .revB rd ra => Sys2Proof.Machine.execRevB rd ra s

end Sys2Proof.Machine
end

