-- ==== Sys2Proof/Machine/Window.lean ====
section
/-! DEFINITION. The host register window of spec/20_memory.md: its map, what a read returns, what a write does, what is refused,
and the platform's reset input (spec/70_reset_and_hazards.md R355). -/

namespace Sys2Proof.Machine

/-- A register of the window (R61). -/
inductive Target where
  | vLimb (r : Reg) (j : Nat)
  | sReg (r : Reg)
  | cmd
  | cr
  | fcmd
  | id
deriving DecidableEq, Repr

/-- The register number a 16-way slot number names. -/
def slotReg (n : Nat) : Reg := ⟨n % 16, Nat.mod_lt _ (by decide)⟩

/-- The window map (R61) at an 8-byte offset from P_BASE; `none` is reserved, or outside the 4096 bytes (assumption log 7). -/
def windowMap (w : Width) (off : Nat) : Option Target :=
  if off < 0x800 then
    if off % 0x80 / 8 < w.limbs then some (.vLimb (slotReg (off / 0x80)) (off % 0x80 / 8)) else none
  else if off < 0x880 then some (.sReg (slotReg ((off - 0x800) / 8)))
  else if off = 0x880 then some .cmd
  else if off = 0x888 then some .cr
  else if off = 0x890 then some .fcmd
  else if off = 0x898 then some .id
  else none

/-- The register an access reaches: only 8-byte accesses at multiples of 8 are accepted (R65). -/
def accessTarget (w : Width) (off size : Nat) : Option Target :=
  if size = 8 ∧ off % 8 = 0 then windowMap w off else none

/-- The window offset of an address of the host, by P_BASE (R60). -/
def windowOffset (addr : Nat) : Option Nat :=
  if Config.pBase ≤ addr ∧ addr < Config.pBase + 0x1000 then some (addr - Config.pBase) else none

/-- CR as a host read returns it (R34): CF, BUSY, FLT, bit 3 zero, FC in [7:4], the rest zero. -/
def State.crValue (s : State) : BitVec 64 :=
  BitVec.ofNat 64 (s.cf.toNat + 2 * s.busy.toNat + 4 * s.flt.toNat + 16 * s.fc)

/-- ID (R38): W in [15:0], the rest zero. -/
def State.idValue (s : State) : BitVec 64 := BitVec.ofNat 64 s.bits

/-- What a read of a window register returns (R63, R64, R34, R36, R38); CMD cannot be read (R37, R66). -/
def State.windowValue (s : State) : Target → Option (BitVec 64)
  | .vLimb r j => some (BitVec.ofNat 64 (limbOf (s.vreg r) j))
  | .sReg r => some (s.sreg r)
  | .cmd => none
  | .cr => some s.crValue
  | .fcmd => some s.fcmd
  | .id => some s.idValue

/-- The byte at window offset `b`, of the 64-bit word it lies in, little-endian (R62). There is no other
memory (assumption log 15). -/
def State.windowByte (s : State) (b : Nat) : Option (BitVec 8) :=
  match (windowMap s.width (b - b % 8)).bind s.windowValue with
  | some v => some (BitVec.ofNat 8 (byteOf v.toNat (b % 8)))
  | none => none

/-- Sets the UNWRITTEN_READ mark if a host read reaches an unwritten limb or S register (R63, R64, R310). -/
def State.noteHostRead (s : State) : Target → State
  | .vLimb r j => { s with unwrittenMark := s.unwrittenMark || !s.vWritten r j }
  | .sReg r => { s with unwrittenMark := s.unwrittenMark || !s.sWritten r }
  | .cmd | .cr | .fcmd | .id => s

/-- Hands an answer to the host. -/
def State.answer (s : State) (a : Answer) : State := { s with answers := a :: s.answers }

/-- Hands the host the value an accepted read returns, and records BUSY as it stood at that read (R356; assumption log 19). -/
def State.answerRead (s : State) (x : BitVec 64) : State :=
  { s with answers := .data x :: s.answers, busyAtLastRead := s.busy }

/-- A refused access: P_BUSERR and the REFUSED mark; nothing of the block changes (R66, R311). -/
def State.refuse (s : State) : State :=
  { s with refusedMark := true, answers := .busError :: s.answers }

/-- What the latency of a command may depend on beside its CMD value: W, CF and the value of every register, the command's
operands among them (R353, D26). No host access can change one while BUSY = 1 (R350). -/
def State.contents (s : State) : List Nat :=
  s.bits :: s.cf.toNat :: (List.finRange 16).map s.vreg ++ (List.finRange 16).map (fun r => (s.sreg r).toNat)

/-- An accepted CMD write in IDLE: BUSY(c), its latency drawn (R41, R353; assumption log 4). -/
def State.issue (s : State) (v : BitVec 64) : State :=
  { s with run := .busy v (Config.latency s.draws v s.contents), draws := s.draws + 1 }

/-- A host read (R63-R67, R350). -/
def State.hostRead (s : State) (off size : Nat) : State :=
  match accessTarget s.width off size with
  | none => s.refuse
  | some t =>
    if s.busy = true ∧ t ≠ .cr then s.refuse
    else match s.windowValue t with
      | none => s.refuse
      | some v => (s.noteHostRead t).answerRead v

/-- What an accepted write to a window register does: V and S are written, CR takes CF only, CMD issues in IDLE and is
discarded in FAULTED; `none` for the read-only registers (R63, R64, R34, R41, R66). -/
def State.writeTarget (s : State) (v : BitVec 64) : Target → Option State
  | .vLimb r j => some (s.setLimb r j v)
  | .sReg r => some (s.setS r v)
  | .cr => some (s.setCF (v.getLsbD 0))
  | .cmd =>
    match s.run with
    | .idle => some (s.issue v)
    | .busy _ _ | .faulted _ => some s
  | .fcmd | .id => none

/-- A host write (R63-R67, R350). -/
def State.hostWrite (s : State) (off size : Nat) (v : BitVec 64) : State :=
  match accessTarget s.width off size with
  | none => s.refuse
  | some t =>
    if s.busy = true then s.refuse
    else match s.writeTarget v t with
      | none => s.refuse
      | some s' => s'.answer .done

/-- One event of the outside. -/
def State.serve (s : State) : HostEvent → State
  | .read off size => s.hostRead off size
  | .write off size v => s.hostWrite off size v
  | .reset => s.resetInput

/-- The event is a read of CR, the one access accepted while BUSY = 1 (R350). -/
def isCrRead (w : Width) : HostEvent → Bool
  | .read off size => accessTarget w off size == some .cr
  | .write _ _ _ | .reset => false

end Sys2Proof.Machine
end

