-- ==== Sys2Proof/Machine/Turn.lean ====
section
/-! DEFINITION. Whose move it is: the core's step on the command in flight, and the host's turn (spec/10_state.md R30, R41;
spec/70_reset_and_hazards.md R350, R353, R354). -/

namespace Sys2Proof.Machine

/-- The core's step on CMD value `c` (R41): decode first; an illegal value takes ILLEGAL_COMMAND and reads nothing (R303, R305);
a command notes its reads (R310) and has its meaning. -/
def coreStep (c : BitVec 64) (s : State) : Host.Outcome State Fault Refusal :=
  match decode s.width c with
  | .error _ => s.takeFault .illegalCommand
  | .ok i => exec i (s.noteReads (sourcesOf i))

/-- The host's turn in IDLE or FAULTED: its oldest pending event, served; with none pending all state is kept (R317). -/
def hostTurn (s : State) : State :=
  match s.host with
  | [] => s
  | e :: rest => { s with host := rest }.serve e

/-- The host's turn while BUSY = 1 with `k + 1` polls to come: its oldest pending event, served; a CR read uses one poll up. -/
def busyTurn (c : BitVec 64) (k : Nat) (e : HostEvent) (rest : List HostEvent) (s : State) : State :=
  let t := { s with host := rest }.serve e
  if isCrRead s.width e then { t with run := .busy c k } else t

/-- One move of the machine. While BUSY = 1 the host moves as long as drawn polls remain and it has an event pending; else
the core's step ends the command, so no run stays BUSY for ever (R354). In IDLE and FAULTED the host moves. -/
def move (s : State) : Host.Outcome State Fault Refusal :=
  match s.run with
  | .busy c 0 => coreStep c s
  | .busy c (k + 1) =>
    match s.host with
    | [] => coreStep c s
    | e :: rest => .next (busyTurn c k e rest s)
  | .idle | .faulted _ => .next (hostTurn s)

/-- The command with CMD value `v` issued and about to take the core's step: BUSY(v), no poll to come. -/
def placeCommand (s : State) (v : BitVec 64) : State := { s with run := .busy v 0 }

end Sys2Proof.Machine
end

