-- ==== Sys2Proof/Machine/Step.lean ====
section
/-! DEFINITION. The step function, and where a command is placed for the next step to run (spec/10_state.md R41). -/

namespace Sys2Proof.Machine

/-- One step of the machine: a move of the core or of the host. -/
def step (s : State) : Host.Outcome State Fault Refusal := move s

/-- `s` with the instruction whose bits are `w` issued to the core. The block fetches nothing (R39, R72): a command comes in
by one CMD write, for which this stands (assumption log 5). The state is BUSY(c) with no poll left to answer, so the very
next step is the core's step on c; nothing else changes. -/
def State.withFetchWord (s : State) (nbits w : Nat) : State := placeCommand s (tableCmdValue nbits w)

end Sys2Proof.Machine
end

