-- ==== Sys2Proof/Machine/Algorithms.lean ====
section
/-! DEFINITION. The source's own algorithms, stated by the spec 'so that an implementation can be checked': the carry chain
(R186), the two multipliers (R203, R204), the four dividers (R226-R229) and the shifter's word funnel (R252). No command's
meaning calls them: their intermediate values are not observable (R41), and a model of the closed forms is correct
(spec/45_division.md, section 2). They are here to be proved equal to the closed forms. -/

namespace Sys2Proof.Machine

/-- `u.Lo` and `u.Hi` at half width `k` (R11). -/
def loHalf (k u : Nat) : Nat := bitSlice u 0 k

def hiHalf (k u : Nat) : Nat := bitSlice u k k

/-- The two-line idiom at one 64-bit limb (R186): `s = a + b; c_out = s < a; s += c_in; c_out |= s < c_in`. -/
def limbAdd (a b c : Nat) : Nat × Nat :=
  let s := trunc 64 (a + b)
  let c1 := if s < a then 1 else 0
  let s' := trunc 64 (s + c)
  let c2 := if s' < c then 1 else 0
  (s', c1 ||| c2)

/-- `Add` by halves, recursing to 64-bit limbs, at width 64 · 2^n (R186). -/
def carryChain : Nat → Nat → Nat → Nat → Nat × Nat
  | 0, x, y, c => limbAdd x y c
  | n + 1, x, y, c =>
    let h := 64 * 2 ^ n
    let l := carryChain n (loHalf h x) (loHalf h y) c
    let u := carryChain n (hiHalf h x) (hiHalf h y) l.2
    (pair h u.1 l.1, u.2)

/-- `Sub` by halves, 'the same with SubB_H, passing the borrow upward' (R186). -/
def borrowChain : Nat → Nat → Nat → Nat → Nat × Nat
  | 0, x, y, b => subB 64 x y b
  | n + 1, x, y, b =>
    let h := 64 * 2 ^ n
    let l := borrowChain n (loHalf h x) (loHalf h y) b
    let u := borrowChain n (hiHalf h x) (hiHalf h y) l.2
    (pair h u.1 l.1, u.2)

/-- The widening multiplier by four half-products, the carries re-bound (R203, C2), at width 64 · 2^n; `(hi, lo)`. The
recursion ends in 'a native 64×64→128 primitive'. -/
def schoolbook : Nat → Nat → Nat → Nat × Nat
  | 0, x, y => mulX 64 x y
  | n + 1, x, y =>
    let h := 64 * 2 ^ n
    let lo := schoolbook n (loHalf h x) (loHalf h y)
    let hi := schoolbook n (hiHalf h x) (hiHalf h y)
    let t := schoolbook n (loHalf h x) (hiHalf h y)
    let t' := schoolbook n (hiHalf h x) (loHalf h y)
    let a := addC h lo.1 t.2 0
    let b := addC h a.1 t'.2 0
    let c := addC h hi.2 t.1 a.2
    let d := addC h c.1 t'.1 b.2
    (pair h (hi.1 + c.2 + d.2) d.1, pair h b.1 lo.2)

/-- The wrapping multiplier (R204) at half width `k`. -/
def wrappingMul (k u v : Nat) : Nat :=
  let p := mulX k (loHalf k u) (loHalf k v)
  pair k (trunc k (p.1 + trunc k (hiHalf k u * loHalf k v) + trunc k (loHalf k u * hiHalf k v))) p.2

/-- QuoRem by a half-width divisor (R227), half width `k`. -/
def quoRemHalf (k u v : Nat) : Except FaultCode (Nat × Nat) :=
  if hiHalf k u < v then divK k (hiHalf k u) (loHalf k u) v
  else do
    let upper ← divK k 0 (hiHalf k u) v
    let lower ← divK k upper.2 (loHalf k u) v
    .ok (pair k upper.1 lower.1, lower.2)

/-- QuoRem by a k-bit divisor, one `Div_k` per k-bit digit of the dividend from the most significant down, threading the
remainder `r` (R228). -/
def quoRemNarrow (k : Nat) : Nat → Nat → Nat → Nat → Except FaultCode (Nat × Nat)
  | 0, _, _, r => .ok (0, r)
  | i + 1, u, v, r => do
    let d ← divK k r (bitSlice u (k * i) k) v
    let rest ← quoRemNarrow k i u v d.2
    .ok (d.1 * 2 ^ (k * i) + rest.1, rest.2)

/-- Full-width QuoRem (R226), half width `k`. -/
def quoRemFull (k u v : Nat) : Except FaultCode (Nat × Nat) :=
  if hiHalf k v = 0 then quoRemHalf k u (loHalf k v)
  else do
    let n := lz k (hiHalf k v)
    let u1 := u / 2
    let v1 := trunc (2 * k) (v * 2 ^ n)
    let t ← divK k (hiHalf k u1) (loHalf k u1) (hiHalf k v1)
    let tq := t.1 / 2 ^ (k - 1 - n)
    let tq' := if tq ≠ 0 then tq - 1 else tq
    let r := truncInt (2 * k) ((u : Int) - trunc (2 * k) (v * tq'))
    if r ≥ v then .ok (tq' + 1, r - v) else .ok (tq', r)

/-- The correction loop of one digit (R229), for at most `fuel` corrections (DESIGN CHOICE, assumption log 16): the
corrected digit. -/
def correctDigit (k yHi yLo next : Nat) : Nat → Nat → Nat → Nat
  | 0, q, _ => q
  | fuel + 1, q, rhat =>
    if q / 2 ^ k ≠ 0 ∨ q * yLo > pair k rhat next then
      if rhat + yHi ≥ 2 ^ k then q - 1 else correctDigit k yHi yLo next fuel (q - 1) (rhat + yHi)
    else q

/-- Widening Div, the normalised two-digit loop (R229), half width `k`, for `y ≠ 0` and `y > hi`. -/
def widenDiv (k fuel hi lo y : Nat) : Except FaultCode (Nat × Nat) := do
  let w := 2 * k
  let s := lz w y
  let y' := trunc w (y * 2 ^ s)
  let un32 := trunc w (hi * 2 ^ s) ||| lo / 2 ^ (w - s)
  let un10 := trunc w (lo * 2 ^ s)
  let d1 ← quoRemHalf k un32 (hiHalf k y')
  let q1 := correctDigit k (hiHalf k y') (loHalf k y') (hiHalf k un10) fuel d1.1 d1.2
  let un21 := truncInt w ((pair k (loHalf k un32) (hiHalf k un10) : Int) - trunc w (q1 * y'))
  let d0 ← quoRemHalf k un21 (hiHalf k y')
  let q0 := correctDigit k (hiHalf k y') (loHalf k y') (loHalf k un10) fuel d0.1 d0.2
  .ok (pair k (loHalf k q1) (loHalf k q0),
    truncInt w ((pair k (loHalf k un21) (loHalf k un10) : Int) - trunc w (q0 * y')) / 2 ^ s)

/-- The value of `l` limbs, limb 0 least significant (R11). -/
def fromLimbs : Nat → (Nat → Nat) → Nat
  | 0, _ => 0
  | l + 1, f => fromLimbs l f + f l * 2 ^ (64 * l)

/-- Limb `j` of `u` as the funnel reads it: 0 at or above limb `l` (R252). -/
def sourceLimb (l u j : Nat) : Nat := if j < l then limbOf u j else 0

/-- The word funnel of LSH (R252): limb `j` of the result for `n = 64·w + b`. -/
def lshLimb (l u n j : Nat) : Nat :=
  let w := n / 64
  let b := n % 64
  let low := if w ≤ j then sourceLimb l u (j - w) else 0
  let below := if w + 1 ≤ j then sourceLimb l u (j - w - 1) else 0
  trunc 64 (low * 2 ^ b) ||| (if b = 0 then 0 else below / 2 ^ (64 - b))

/-- The word funnel of RSH (R252). -/
def rshLimb (l u n j : Nat) : Nat :=
  let w := n / 64
  let b := n % 64
  sourceLimb l u (j + w) / 2 ^ b ||| (if b = 0 then 0 else trunc 64 (sourceLimb l u (j + w + 1) * 2 ^ (64 - b)))

end Sys2Proof.Machine
end

