-- ==== Sys2Proof/Machine/Assembler.lean ====
section
/-! DEFINITION. The assembler syntax of spec/30_encoding.md R103, the pseudo-instructions of R104, and what an assembler refuses
(spec/60_exceptions.md R311). Text is a list of characters (assumption log 14). -/

namespace Sys2Proof.Machine

/-- The register class of an operand (R93). -/
inductive RegClass where
  | v
  | s
deriving DecidableEq, Repr

/-- A register as the assembler writes it: `v0`..`v15` or `s0`..`s15` (R103). -/
structure AsmReg where
  cls : RegClass
  num : Reg
deriving DecidableEq, Repr

/-- A mnemonic of the opcode map, or one of the three pseudo-instructions (R104). -/
inductive Mnemonic where
  | core (op : Opcode)
  | mov
  | clr
  | tstz
deriving DecidableEq, Repr

/-- What an assembler refuses a line for, by name (R103, R311): the mnemonic or the operand as the text has it, or the
register of the wrong class. -/
inductive AsmError where
  /-- The mnemonic `name` is not in R97 and is no pseudo-instruction. -/
  | unknownMnemonic (name : List Char)
  /-- The operand `name` is no register. -/
  | badRegister (name : List Char)
  /-- The number of operands is not that of `mnemonic`. -/
  | wrongCount (mnemonic : Mnemonic)
  /-- `reg` is the first register of the wrong class. -/
  | wrongClass (reg : AsmReg)
deriving DecidableEq, Repr

/-- The classes of the operands of a command, in field order (R93). -/
def Opcode.classes (op : Opcode) : List RegClass :=
  match op with
  | .nop | .clc | .stc => []
  | .zero | .one | .max => [.v]
  | .from64 => [.v, .s]
  | .from128 | .from256 | .from512 | .not | .rev | .revB => [.v, .v]
  | .isZero | .bitLen | .clz | .ctz | .popcnt => [.s, .v]
  | .eq | .cmp | .eqH | .cmpH => [.s, .v, .v]
  | .and | .or | .xor | .andNot | .andH | .orH | .xorH | .andNotH => [.v, .v, .v]
  | .add | .addc | .sub | .subb | .addH | .subH | .mul | .mulH => [.v, .v, .v]
  | .lsh | .rsh => [.v, .v, .s]
  | .bit => [.s, .v, .s]
  | .mulx | .quoRem | .quoRem64 | .quoRem128 | .quoRem256 | .quoRem512 => [.v, .v, .v, .v]
  | .divx => [.v, .v, .v, .v, .v]

/-- The fields a format puts its operands into, in field order; `none` for a wrong number of operands (R92, R103). -/
def Format.place : Format → List Reg → Option Fields
  | .n, [] => some ⟨0, 0, 0, 0, 0⟩
  | .d, [rd] => some ⟨rd, 0, 0, 0, 0⟩
  | .da, [rd, ra] => some ⟨rd, 0, ra, 0, 0⟩
  | .dab, [rd, ra, rb] => some ⟨rd, 0, ra, rb, 0⟩
  | .deab, [rd, re, ra, rb] => some ⟨rd, re, ra, rb, 0⟩
  | .deabc, [rd, re, ra, rb, rc] => some ⟨rd, re, ra, rb, rc⟩
  | _, _ => none

/-- The operands of a command, in field order (R103). -/
def Format.operands : Format → Fields → List Reg
  | .n, _ => []
  | .d, f => [f.rd]
  | .da, f => [f.rd, f.ra]
  | .dab, f => [f.rd, f.ra, f.rb]
  | .deab, f => [f.rd, f.re, f.ra, f.rb]
  | .deabc, f => [f.rd, f.re, f.ra, f.rb, f.rc]

/-- The classes of the operands of a mnemonic, the pseudo-instructions' among them (R93, R104). -/
def Mnemonic.classes : Mnemonic → List RegClass
  | .core op => Opcode.classes op
  | .mov => [.v, .v]
  | .clr => [.v]
  | .tstz => [.s, .v]

/-- The one command a mnemonic with its registers stands for; a pseudo-instruction expands to exactly one (R103, R104).
`none` for a wrong number of registers. -/
def Mnemonic.expand : Mnemonic → List Reg → Option Instr
  | .core op, rs => (Format.place op.format rs).map op.instr
  | .mov, [d, a] => some (.or d a a)
  | .clr, [d] => some (.zero d)
  | .tstz, [d, a] => some (.isZero d a)
  | .mov, _ | .clr, _ | .tstz, _ => none

/-- The first operand whose class is not the one asked for. -/
def firstWrongClass : List RegClass → List AsmReg → Option AsmReg
  | c :: cs, r :: rs => if r.cls = c then firstWrongClass cs rs else some r
  | [], _ => none
  | _ :: _, [] => none

/-- Assembles one instruction: the number and the class of each operand must match, and a refusal names the mnemonic or the
register (R93, R103, R311). That a wrong count is reported before a wrong class, and the first operand of a wrong class
before a later one, is the model's: DESIGN CHOICE, safe (assumption log 18). -/
def assemble (m : Mnemonic) (ops : List AsmReg) : Except AsmError Instr :=
  if ops.length = m.classes.length then
    match firstWrongClass m.classes ops with
    | some r => .error (.wrongClass r)
    | none =>
      match m.expand (ops.map AsmReg.num) with
      | some i => .ok i
      | none => .error (.wrongCount m)
  else .error (.wrongCount m)

/-- How a command is written: its opcode and its operands with their classes. -/
def disassemble (i : Instr) : Opcode × List AsmReg :=
  (i.opcode, List.zipWith AsmReg.mk (Opcode.classes i.opcode) (Format.operands i.opcode.format i.fields))

/-- A decimal digit. -/
def digitChar (n : Nat) : Char := Char.ofNat (48 + n)

/-- A register number as R103 writes it, 0..15 with no leading zero. -/
def regDigits (r : Reg) : List Char :=
  if r.val < 10 then [digitChar r.val] else ['1', digitChar (r.val - 10)]

/-- A register token. -/
def parseReg : List Char → Option AsmReg
  | 'v' :: ds => ((List.finRange 16).find? (fun r => regDigits r == ds)).map (AsmReg.mk .v)
  | 's' :: ds => ((List.finRange 16).find? (fun r => regDigits r == ds)).map (AsmReg.mk .s)
  | _ => none

/-- A mnemonic token. -/
def parseMnemonic (cs : List Char) : Option Mnemonic :=
  if cs = ['M', 'O', 'V'] then some .mov
  else if cs = ['C', 'L', 'R'] then some .clr
  else if cs = ['T', 'S', 'T', 'Z'] then some .tstz
  else (Opcode.all.find? (fun op => op.mnemonic.toList == cs)).map .core

/-- A text without its leading and trailing blanks. -/
def trimBlanks (cs : List Char) : List Char :=
  ((cs.dropWhile (· == ' ')).reverse.dropWhile (· == ' ')).reverse

/-- The pieces of a text between commas; `acc` holds the piece being read, reversed. -/
def splitCommas : List Char → List Char → List (List Char)
  | [], acc => [acc.reverse]
  | c :: cs, acc => if c = ',' then acc.reverse :: splitCommas cs [] else splitCommas cs (c :: acc)

/-- The operand texts of a command: none, or the pieces between commas, each without the blanks around it (R103). -/
def operandTexts (cs : List Char) : List (List Char) :=
  if trimBlanks cs = [] then [] else (splitCommas cs []).map trimBlanks

/-- The registers the operand texts name; the first that names none is refused by name (R311). -/
def parseRegs : List (List Char) → Except AsmError (List AsmReg)
  | [] => .ok []
  | w :: ws =>
    match parseReg w with
    | none => .error (.badRegister w)
    | some r => (parseRegs ws).map (r :: ·)

/-- The mnemonic of a line: its characters up to the first blank. -/
def mnemonicText (line : List Char) : List Char := (trimBlanks line).takeWhile (· != ' ')

/-- Assembles one line of text: the mnemonic, then the operands, separated by commas (R103). Of several reasons to refuse a
line the unknown mnemonic comes first, then the first operand that is no register, then what `assemble` finds: DESIGN
CHOICE, safe (assumption log 18). -/
def assembleLine (line : List Char) : Except AsmError Instr :=
  match parseMnemonic (mnemonicText line) with
  | none => .error (.unknownMnemonic (mnemonicText line))
  | some mn =>
    match parseRegs (operandTexts ((trimBlanks line).dropWhile (· != ' '))) with
    | .error e => .error e
    | .ok rs => assemble mn rs

/-- Assembles a text line by line from line `n`; a refusal names the line and what is refused (R311). Of
several refused lines the first is named: DESIGN CHOICE, safe (assumption log 18). -/
def assembleText : Nat → List (List Char) → Except (Nat × AsmError) (List Instr)
  | _, [] => .ok []
  | n, l :: ls =>
    match assembleLine l, assembleText (n + 1) ls with
    | .error e, _ => .error (n, e)
    | .ok _, .error e => .error e
    | .ok i, .ok is => .ok (i :: is)

end Sys2Proof.Machine
end

