-- ==== Sys2Proof/Safety.lean ====
section
/-! DEFINITION. What counts as a safe run, in the terms claims use: the stops of the spec's own model (R310, R311), what a
claim may assume (R356), what a host owes a command (R342), and the frame and fault-record predicates. -/

namespace Sys2Proof.Safety

open Sys2Proof.Machine

/-- The spec's reading of a run in which UNWRITTEN_READ is terminal (R310) and a refused access has no step (R311): a step
after which a mark of the run stands answers no next state. Where no mark stands it is `step`. -/
def strictStep (s : State) : Host.Outcome State Fault Refusal :=
  match step s with
  | .next t =>
    if t.unwrittenMark then .fault .unwrittenRead
    else if t.refusedMark then .refused .hostAccess
    else .next t
  | .fault f => .fault f
  | .refused r => .refused r

/-- The premises under which a claim about a host program holds (R356), read at its end, where the host has no event left: no
fault recorded, no mark, and BUSY = 0 at the host's last read (assumption log 19). A command issued after the last read
may still be in flight. FLT is read at the end only: a fault before a reset inside the host's stream is not seen there
(assumption log 17). -/
def ClaimPremises (s : State) : Prop :=
  s.host = [] ∧ s.flt = false ∧ s.refusedMark = false ∧ s.unwrittenMark = false ∧ s.busyAtLastRead = false

/-- The host has done its duty of R342 step 2 for a command: every limb it reads is written. -/
def ReadsWritten (i : Instr) (s : State) : Prop := (sourcesOf i).all s.sourceWritten = true

/-- Every V register but those listed keeps its value and its written bits. -/
def FrameV (ds : List Reg) (s t : State) : Prop :=
  ∀ r, r ∉ ds → t.vreg r = s.vreg r ∧ ∀ j, t.vWritten r j = s.vWritten r j

/-- Every S register but those listed keeps its value and its written bit. -/
def FrameS (ds : List Reg) (s t : State) : Prop :=
  ∀ r, r ∉ ds → t.sreg r = s.sreg r ∧ t.sWritten r = s.sWritten r

/-- What no command ever changes: the width, the marks and the read record of the run, and the host's side. -/
def KeepsRun (s t : State) : Prop :=
  t.width = s.width ∧ t.refusedMark = s.refusedMark ∧ t.unwrittenMark = s.unwrittenMark ∧
    t.busyAtLastRead = s.busyAtLastRead ∧ t.host = s.host ∧ t.answers = s.answers ∧ t.draws = s.draws

/-- The command completed (R41): BUSY = 0, IDLE, FCMD kept, each listed destination written in every limb (R40), and every
other register as before. CF is not spoken of. -/
def Completes (vs ss : List Reg) (s t : State) : Prop :=
  t.run = .idle ∧ t.fcmd = s.fcmd ∧
    (∀ r ∈ vs, ∀ j < s.width.limbs, t.vWritten r j = true) ∧ (∀ r ∈ ss, t.sWritten r = true) ∧
    FrameV vs s t ∧ FrameS ss s t ∧ KeepsRun s t

/-- The command took a fault (R306): FC, FLT, BUSY and FCMD as the rule says, and nothing else changed. -/
def Faults (code : FaultCode) (s t : State) : Prop :=
  t.run = .faulted code ∧ t.fc = code.number ∧ t.flt = true ∧ t.busy = false ∧
    (∀ c k, s.run = .busy c k → t.fcmd = c) ∧ t.v = s.v ∧ t.s = s.s ∧ t.cf = s.cf ∧ KeepsRun s t

/-- The commands that can raise DIVIDE_BY_ZERO (R300). -/
def canDivideByZero (i : Instr) : Bool :=
  match i.opcode with
  | .quoRem | .quoRem64 | .quoRem128 | .quoRem256 | .quoRem512 | .divx => true
  | _ => false

/-- The fault record is consistent (R35, R36, R300): FCMD is still its reset value while no fault is recorded; a recorded
fault's FCMD is a CMD value that can raise that fault on this instance. -/
def FaultRecord (s : State) : Prop :=
  match s.run with
  | .idle => s.fcmd = 0
  | .busy _ _ => s.fcmd = 0
  | .faulted .illegalCommand => ∃ e, decode s.width s.fcmd = .error e
  | .faulted .divideByZero => ∃ i, decode s.width s.fcmd = .ok i ∧ canDivideByZero i = true
  | .faulted .quotientOverflow => ∃ rd re ra rb rc, decode s.width s.fcmd = .ok (.divx rd re ra rb rc)

/-- The two states agree on what a source operand gives: the low limbs it needs, or the S register. -/
def AgreeOn (s s' : State) : Source → Prop
  | .v r e => trunc (64 * e.count s.width) (s.vreg r) = trunc (64 * e.count s.width) (s'.vreg r)
  | .s r => s.sreg r = s'.sreg r

/-- The host's event was served with answer `a`, and touched nothing but what the rule of the event says of V, S, CF and the
UNWRITTEN_READ mark, which are not spoken of here (R67). An answered read records BUSY as it stood at it (R356). -/
def Served (a : Answer) (rest : List HostEvent) (s t : State) : Prop :=
  t.width = s.width ∧ t.fcmd = s.fcmd ∧ t.refusedMark = s.refusedMark ∧ t.draws = s.draws ∧ t.host = rest ∧
    t.answers = a :: s.answers ∧
    t.busyAtLastRead = (match a with | .data _ => s.busy | .done | .busError => s.busyAtLastRead)

/-- The command word of R91, from its fields. -/
def wordOf (op rd re ra rb rc : Nat) : Nat :=
  op + 2 ^ 8 * rd + 2 ^ 12 * re + 2 ^ 16 * ra + 2 ^ 20 * rb + 2 ^ 24 * rc

/-- A row of R97 and of R94: at every W at which it is legal the command has this word, and these are the operands it reads. -/
def IsCommand (i : Instr) (word : Nat) (reads : List Source) : Prop :=
  (∀ w, i.wellFormed w = true → decode w (BitVec.ofNat 64 word) = .ok i) ∧ sourcesOf i = reads

/-- The order in which R100 checks its six conditions. -/
def illegalRank : Illegal → Nat
  | .cmdHighBits => 1
  | .reservedBits => 2
  | .reservedOpcode => 3
  | .notAtThisWidth => 4
  | .unusedField => 5
  | .sameDestinations => 6

/-- The six conditions of R100 on a CMD value, each in the rule's own words on the value's bits. -/
def illegalBecause (w : Width) (v : BitVec 64) : Illegal → Prop
  | .cmdHighBits => v.toNat / 2 ^ 32 ≠ 0
  | .reservedBits => v.toNat / 2 ^ 28 % 2 ^ 4 ≠ 0
  | .reservedOpcode => ∀ op : Opcode, op.byte ≠ v.toNat % 2 ^ 8
  | .notAtThisWidth => ∃ op : Opcode, op.byte = v.toNat % 2 ^ 8 ∧ op.legalAt w = false
  | .unusedField => ∃ op : Opcode, op.byte = v.toNat % 2 ^ 8 ∧ op.format.unusedZero (fieldsOf v.toNat) = false
  | .sameDestinations => ∃ op : Opcode, op.byte = v.toNat % 2 ^ 8 ∧ op.format.usesRe = true ∧
      v.toNat / 2 ^ 8 % 2 ^ 4 = v.toNat / 2 ^ 12 % 2 ^ 4

/-- The host accesses the block refuses, as R66 lists them: a wrong size or alignment (R65), a reserved offset (R61), a read of
CMD, a write to FCMD or ID, and while BUSY anything but a read of CR. The reset input is no access. -/
def IsRefused (s : State) (e : HostEvent) : Prop :=
  ∃ off size, (e = .read off size ∨ ∃ v, e = .write off size v) ∧
    (size ≠ 8 ∨ off % 8 ≠ 0 ∨ 0x8A0 ≤ off ∨ (s.width = .w512 ∧ off < 0x800 ∧ 0x40 ≤ off % 0x80) ∨
      e = .read 0x880 8 ∨ (∃ v, e = .write 0x890 8 v ∨ e = .write 0x898 8 v) ∨
      (s.busy = true ∧ e ≠ .read 0x888 8))

/-- The host moves next: the block is not BUSY, or some drawn CR poll is still to come (R30, R353). -/
def HostMoves (s : State) : Prop := ∀ c, s.run ≠ .busy c 0

end Sys2Proof.Safety
end

