-- ==== Sys2Proof/Certificates/Slice0/Obligations.lean ====
section
/-! DEFINITION. The statements about bigz CORE, from the numbered rules of spec/. They hold for both widths: W is read from
the state. bigz CORE has no memory (R60), so a frame speaks of V, S, their written bits, CF, the run state, FCMD, W, and
the host's side; the bytes of the window are the registers' (O8). -/

open Sys2Proof Sys2Proof.Machine Sys2Proof.Safety

/-! ### Reset and the control registers -/

/-- R42: what reset leaves, at either width. The contents of V and S are the model's choice (assumption log 2) and are not
spoken of. -/
def Obligations.ResetLeavesStatedValues : Prop :=
  ∀ w : Width,
    (State.resetAt w).width = w ∧ (State.resetAt w).cf = false ∧ (State.resetAt w).busy = false ∧
      (State.resetAt w).flt = false ∧ (State.resetAt w).fc = 0 ∧ (State.resetAt w).crValue = 0 ∧
      (State.resetAt w).fcmd = 0 ∧ (State.resetAt w).run = .idle ∧
      (∀ r j, (State.resetAt w).vWritten r j = false) ∧ ∀ r, (State.resetAt w).sWritten r = false

/-- R340: the reset input, in every run state in which the host moves: IDLE with everything at its reset value, a command in
flight abandoned. At BUSY with no poll left the core moves first and ends the command (assumption log 4), and the reset
is served after it. The marks, the read record, the answers and the draw counter are the run's, not the block's, and stay
(assumption logs 12 and 19); that the run goes on over a reset is the model's choice (assumption log 17). -/
def Obligations.ResetInputInEveryRunState : Prop :=
  ∀ (s : State) (rest : List HostEvent), s.host = .reset :: rest → HostMoves s →
    ∃ t, step s = .next t ∧ t.width = s.width ∧ t.cf = false ∧ t.run = .idle ∧ t.fcmd = 0 ∧ t.crValue = 0 ∧
      (∀ r j, t.vWritten r j = false) ∧ (∀ r, t.sWritten r = false) ∧ t.host = rest ∧
      t.refusedMark = s.refusedMark ∧ t.unwrittenMark = s.unwrittenMark ∧ t.busyAtLastRead = s.busyAtLastRead ∧
      t.answers = s.answers ∧ t.draws = s.draws

/-- R34, R35: the fields of CR, for every state: CF, BUSY, FLT, FC; the reserved bits 3 and 63:8 read 0; FLT = 1 exactly when
FC ≠ 0; FC is 0, 1, 2 or 3. That one home, the run state, holds the three is log 13 (DEDUCED). -/
def Obligations.ControlRegisterLayout : Prop :=
  ∀ s : State,
    s.crValue.getLsbD 0 = s.cf ∧ s.crValue.getLsbD 1 = s.busy ∧ s.crValue.getLsbD 2 = s.flt ∧
      s.crValue.getLsbD 3 = false ∧ s.crValue.toNat / 2 ^ 4 % 2 ^ 4 = s.fc ∧ s.crValue.toNat / 2 ^ 8 = 0 ∧
      (s.flt = true ↔ s.fc ≠ 0) ∧ s.fc ≤ 3 ∧ ¬ (s.busy = true ∧ s.flt = true)

/-- R34, R67, R350: a read of CR is accepted in every run state in which the host moves, and changes no register, flag, FCMD or
mark; a write of CR, in IDLE and FAULTED, sets CF to bit 0 and nothing else. That a read while BUSY uses up one of the
drawn polls is the model's form of P_LATENCY (R353; DESIGN CHOICE, assumption log 4). -/
def Obligations.ControlRegisterAccess : Prop :=
  ∀ (s : State) (rest : List HostEvent),
    (s.host = .read 0x888 8 :: rest → HostMoves s →
      ∃ t, step s = .next t ∧ Served (.data s.crValue) rest s t ∧ t.v = s.v ∧ t.s = s.s ∧ t.cf = s.cf ∧
        t.unwrittenMark = s.unwrittenMark ∧ (s.busy = false → t.run = s.run) ∧
        ∀ c k, s.run = .busy c (k + 1) → t.run = .busy c k) ∧
    (∀ v : BitVec 64, s.host = .write 0x888 8 v :: rest → s.busy = false →
      ∃ t, step s = .next t ∧ Served .done rest s t ∧ t.cf = v.getLsbD 0 ∧ t.v = s.v ∧ t.s = s.s ∧ t.run = s.run ∧
        t.unwrittenMark = s.unwrittenMark)

/-- R36, R38: FCMD and ID read, in IDLE and FAULTED; ID[15:0] = W (0x0200 or 0x0400), ID[63:16] = 0, and no step changes ID. -/
def Obligations.ReadOnlyRegisters : Prop :=
  (∀ (s : State) (rest : List HostEvent), s.busy = false →
    (s.host = .read 0x890 8 :: rest →
      ∃ t, step s = .next t ∧ Served (.data s.fcmd) rest s t ∧ t.v = s.v ∧ t.s = s.s ∧ t.cf = s.cf ∧ t.run = s.run) ∧
    (s.host = .read 0x898 8 :: rest →
      ∃ t, step s = .next t ∧ Served (.data s.idValue) rest s t ∧ t.v = s.v ∧ t.s = s.s ∧ t.cf = s.cf ∧
        t.run = s.run)) ∧
  (∀ s : State, s.idValue.toNat / 2 ^ 16 = 0 ∧ (s.width = .w512 → s.idValue.toNat % 2 ^ 16 = 0x0200) ∧
    (s.width = .w1024 → s.idValue.toNat % 2 ^ 16 = 0x0400)) ∧
  ∀ s t : State, step s = .next t → t.idValue = s.idValue

/-! ### The host window -/

/-- R63: a host write of limb j of V[r] sets that limb and its written bit and leaves the other limbs; a host read returns the
limb, and a read of an unwritten limb is UNWRITTEN_READ, at which the strict run stops (R310). That `step` answers such a
read with the limb's contents, sets the mark and goes on is the model's choice (assumption log 1). -/
def Obligations.LimbWindowAccess : Prop :=
  ∀ (s : State) (r : Reg) (j : Nat) (rest : List HostEvent), j < s.width.limbs → s.busy = false →
    (∀ v : BitVec 64, s.host = .write (0x80 * r.val + 8 * j) 8 v :: rest →
      ∃ t, step s = .next t ∧ Served .done rest s t ∧ limbOf (t.vreg r) j = v.toNat ∧ t.vWritten r j = true ∧
        (∀ i, i < s.width.limbs → i ≠ j →
          limbOf (t.vreg r) i = limbOf (s.vreg r) i ∧ t.vWritten r i = s.vWritten r i) ∧
        FrameV [r] s t ∧ FrameS [] s t ∧ t.cf = s.cf ∧ t.run = s.run ∧ t.unwrittenMark = s.unwrittenMark) ∧
    (s.host = .read (0x80 * r.val + 8 * j) 8 :: rest →
      ∃ t, step s = .next t ∧ Served (.data (BitVec.ofNat 64 (limbOf (s.vreg r) j))) rest s t ∧ t.v = s.v ∧ t.s = s.s ∧
        t.cf = s.cf ∧ t.run = s.run ∧ (t.unwrittenMark = true ↔ s.unwrittenMark = true ∨ s.vWritten r j = false) ∧
        (s.vWritten r j = false → strictStep s = .fault .unwrittenRead))

/-- R64: the same for the S registers. That `step` answers a read of an unwritten one with its contents, sets the mark and goes
on is the model's choice (assumption log 1); R310's stop is the strict run's. -/
def Obligations.SRegisterWindowAccess : Prop :=
  ∀ (s : State) (r : Reg) (rest : List HostEvent), s.busy = false →
    (∀ v : BitVec 64, s.host = .write (0x800 + 8 * r.val) 8 v :: rest →
      ∃ t, step s = .next t ∧ Served .done rest s t ∧ t.sreg r = v ∧ t.sWritten r = true ∧ FrameV [] s t ∧
        FrameS [r] s t ∧ t.cf = s.cf ∧ t.run = s.run ∧ t.unwrittenMark = s.unwrittenMark) ∧
    (s.host = .read (0x800 + 8 * r.val) 8 :: rest →
      ∃ t, step s = .next t ∧ Served (.data (s.sreg r)) rest s t ∧ t.v = s.v ∧ t.s = s.s ∧ t.cf = s.cf ∧ t.run = s.run ∧
        (t.unwrittenMark = true ↔ s.unwrittenMark = true ∨ s.sWritten r = false) ∧
        (s.sWritten r = false → strictStep s = .fault .unwrittenRead))

/-- R62: byte b of V[r] is at window offset 0x80·r + b, for every byte of the register. -/
def Obligations.WindowIsLittleEndian : Prop :=
  ∀ (s : State) (r : Reg) (b : Nat), b < s.bits / 8 →
    s.windowByte (0x80 * r.val + b) = some (BitVec.ofNat 8 (s.vreg r / 2 ^ (8 * b)))

/-- R65, R66: the accesses R66 lists are refused, and no other: P_BUSERR, the REFUSED mark, and no other change. That the run
goes on with the answer busError is the model's choice (assumption log 6), R311's 'no step' being the strict run's; and
so is that an offset of 0x1000 or more, outside the window, is refused with the listed ones (assumption log 7). -/
def Obligations.RefusedAccessesAreThoseListed : Prop :=
  ∀ (s : State) (e : HostEvent) (rest : List HostEvent), s.host = e :: rest → HostMoves s →
    (IsRefused s e →
      step s = .next { s with host := rest, refusedMark := true, answers := .busError :: s.answers } ∧
        (s.unwrittenMark = false → strictStep s = .refused .hostAccess)) ∧
    (¬ IsRefused s e → ∃ t, step s = .next t ∧ t.refusedMark = s.refusedMark)

/-- R67: a host read, accepted or refused, changes no register, flag or FCMD, and outside BUSY not the run state; and the same
read made twice in a row gets the same answer. While BUSY a CR read uses up a drawn poll (assumption log 4). -/
def Obligations.ReadsChangeNothing : Prop :=
  ∀ (s : State) (off size : Nat) (rest : List HostEvent), s.host = .read off size :: rest → HostMoves s →
    ∃ t, step s = .next t ∧ t.v = s.v ∧ t.s = s.s ∧ t.cf = s.cf ∧ t.fcmd = s.fcmd ∧
      (s.busy = false → t.run = s.run ∧
        ∀ rest', rest = .read off size :: rest' → ∃ t' a, step t = .next t' ∧ t'.answers = a :: a :: s.answers)

/-- R41: a CMD write in IDLE puts the value in flight, with a latency nobody knows (P_LATENCY, assumption log 4); in FAULTED it is
discarded with no change of state. -/
def Obligations.CmdWriteIssuesOrIsDiscarded : Prop :=
  ∀ (s : State) (v : BitVec 64) (rest : List HostEvent), s.host = .write 0x880 8 v :: rest →
    (s.run = .idle → ∃ t k, step s = .next t ∧ t.run = .busy v k ∧ t.v = s.v ∧ t.s = s.s ∧ t.cf = s.cf ∧
      t.fcmd = s.fcmd ∧ t.host = rest ∧ t.answers = .done :: s.answers ∧ t.refusedMark = s.refusedMark ∧
      t.busyAtLastRead = s.busyAtLastRead) ∧
    (∀ code, s.run = .faulted code → step s = .next { s with host := rest, answers := .done :: s.answers })

/-- R308: nothing but reset leaves FAULTED, or changes FC or FCMD in it; V, S and CF can still be written by the host. That the
model's run goes on over a reset is its own choice (assumption log 17). -/
def Obligations.OnlyResetLeavesFaulted : Prop :=
  ∀ (s : State) (code : FaultCode), s.run = .faulted code →
    ∃ t, step s = .next t ∧
      ((t.run = .faulted code ∧ t.fc = s.fc ∧ t.flt = true ∧ t.fcmd = s.fcmd) ∨ ∃ rest, s.host = .reset :: rest) ∧
      (∀ (r : Reg) (j : Nat) (v : BitVec 64) (rest : List HostEvent), j < s.width.limbs →
        s.host = .write (0x80 * r.val + 8 * j) 8 v :: rest → limbOf (t.vreg r) j = v.toNat) ∧
      (∀ (r : Reg) (v : BitVec 64) (rest : List HostEvent),
        s.host = .write (0x800 + 8 * r.val) 8 v :: rest → t.sreg r = v) ∧
      (∀ (v : BitVec 64) (rest : List HostEvent), s.host = .write 0x888 8 v :: rest → t.cf = v.getLsbD 0)

/-- R354: no run stays BUSY for ever. The bound, one step more than the host has events pending, is not the rule's: it rests
on the model's form of P_LATENCY and of the host (DESIGN CHOICE, assumption logs 4 and 5). -/
def Obligations.BusyAlwaysEnds : Prop :=
  ∀ s : State, ∃ n t, n ≤ s.host.length + 1 ∧ Host.Core.run Sys2Proof.core n s = .next t ∧ t.busy = false

/-! ### The core's step -/

/-- R41, R102: with a CMD value in flight and the core to move, the step is the meaning of the command the value decodes to, in
the state whose UNWRITTEN_READ mark has noted the command's reads. That the step goes on with the command after noting an
unwritten read, where R310 stops the run, is the model's choice (assumption log 1); and so is that withFetchWord stands
for a CMD write, whose command is the very next step (assumption log 5). -/
def Obligations.StepRunsTheDecodedCommand : Prop :=
  (∀ (s : State) (c : BitVec 64) (k : Nat) (i : Instr), s.run = .busy c k → (k = 0 ∨ s.host = []) →
    decode s.width c = .ok i → step s = exec i (s.noteReads (sourcesOf i))) ∧
  (∀ (s : State) (nbits w : Nat) (i : Instr), decode s.width (tableCmdValue nbits w) = .ok i →
    step (s.withFetchWord nbits w) =
      exec i (State.noteReads { s with run := .busy (tableCmdValue nbits w) 0 } (sourcesOf i))) ∧
  ∀ (s : State) (l : List Source), s.noteReads l =
    { s with unwrittenMark := s.unwrittenMark || !l.all s.sourceWritten }

/-- R303, R306: a CMD value for which a condition of R100 holds takes ILLEGAL_COMMAND: FC = 3, FCMD = the value, FAULTED, and
nothing else changes, the UNWRITTEN_READ mark included. -/
def Obligations.IllegalCommandTakesTheFault : Prop :=
  ∀ (s : State) (c : BitVec 64) (k : Nat), s.run = .busy c k → (k = 0 ∨ s.host = []) →
    (∃ e, illegalBecause s.width c e) →
    ∃ t, step s = .next t ∧ Faults .illegalCommand s t ∧ t.fcmd = c ∧ t.fc = 3

/-! ### Encoding -/

/-- R91, R97, R102: every command that is well-formed at W decodes from its own CMD value, every operand kept. -/
def Obligations.DecodeOfEncode : Prop :=
  ∀ (w : Width) (i : Instr), i.wellFormed w = true → decode w (encodeCmd i) = .ok i

/-- The other direction: what the decoder accepts is well-formed at W, and its CMD value is the value decoded; so each command
has exactly one CMD value. -/
def Obligations.EncodeOfDecode : Prop :=
  ∀ (w : Width) (v : BitVec 64) (i : Instr), decode w v = .ok i → i.wellFormed w = true ∧ encodeCmd i = v

/-- R100: the decoder rejects by the first of the six conditions that holds, and accepts exactly when none does. -/
def Obligations.DecoderRejectsByTheFirstCondition : Prop :=
  ∀ (w : Width) (v : BitVec 64),
    (∀ e, decode w v = .error e ↔
      illegalBecause w v e ∧ ∀ e', illegalRank e' < illegalRank e → ¬ illegalBecause w v e') ∧
    ((∃ i, decode w v = .ok i) ↔ ∀ e, ¬ illegalBecause w v e)

/-- R92, R102: the decoder by masks, as R102 writes it, reads the same command from every CMD value at every W. -/
def Obligations.MaskDecoderAgrees : Prop :=
  ∀ (w : Width) (v : BitVec 64),
    decodeByMask w v = (match decode w v with | .ok i => some i | .error _ => none)

/-- R101: the reserved OP values are those listed, a CMD value with one is illegal, and NOP has the one encoding 0. -/
def Obligations.ReservedOpcodesAreIllegal : Prop :=
  ∀ (w : Width) (v : BitVec 64),
    ((∀ op : Opcode, op.byte ≠ v.toNat % 2 ^ 8) ↔
      (0x03 ≤ v.toNat % 2 ^ 8 ∧ v.toNat % 2 ^ 8 ≤ 0x0F) ∨ (0x17 ≤ v.toNat % 2 ^ 8 ∧ v.toNat % 2 ^ 8 ≤ 0x1F) ∨
      (0x25 ≤ v.toNat % 2 ^ 8 ∧ v.toNat % 2 ^ 8 ≤ 0x2F) ∨ (0x39 ≤ v.toNat % 2 ^ 8 ∧ v.toNat % 2 ^ 8 ≤ 0x3F) ∨
      (0x46 ≤ v.toNat % 2 ^ 8 ∧ v.toNat % 2 ^ 8 ≤ 0x4F) ∨ (0x53 ≤ v.toNat % 2 ^ 8 ∧ v.toNat % 2 ^ 8 ≤ 0x5F) ∨
      (0x66 ≤ v.toNat % 2 ^ 8 ∧ v.toNat % 2 ^ 8 ≤ 0x6F) ∨ (0x72 ≤ v.toNat % 2 ^ 8 ∧ v.toNat % 2 ^ 8 ≤ 0x7F) ∨
      0x87 ≤ v.toNat % 2 ^ 8) ∧
    ((∀ op : Opcode, op.byte ≠ v.toNat % 2 ^ 8) → ∃ e, decode w v = .error e) ∧
    (decode w v = .ok .nop ↔ v = 0)

/-- Words the spec writes out, one of each family and the illegal ones of R105, which the spec derives from R91 and R100: a
sanity statement. -/
def Obligations.WordsOfTheSpecDecode : Prop :=
  ∀ w : Width,
    decode w 0x00000001 = .ok .clc ∧ decode w 0x00000510 = .ok (.zero 5) ∧
    decode w 0x00210322 = .ok (.cmp 3 1 2) ∧ decode w 0x00210038 = .ok (.andNotH 0 1 2) ∧
    decode w 0x00320140 = .ok (.add 1 2 3) ∧ decode w 0x00215452 = .ok (.mulx 4 5 1 2) ∧
    decode w 0x02104365 = .ok (.divx 3 4 0 1 2) ∧ decode w 0x00200170 = .ok (.lsh 1 0 2) ∧
    decode w 0x00600584 = .ok (.bit 5 0 6) ∧
    decode w 0x00325140 = .error .unusedField ∧ decode w 0x00214452 = .error .sameDestinations

/-- R103, R93: every command assembles back from the way it is written, and the assembler refuses, for every mnemonic, the
pseudo-instructions' among them, operands whose number or register classes are not the mnemonic's. -/
def Obligations.AssemblerTakesMatchingOperandsOnly : Prop :=
  (∀ i : Instr, assemble (.core (disassemble i).1) (disassemble i).2 = .ok i) ∧
  (∀ (m : Mnemonic) (ops : List AsmReg), ops.map AsmReg.cls = m.classes → ∃ i, assemble m ops = .ok i) ∧
  ∀ (m : Mnemonic) (ops : List AsmReg), ops.map AsmReg.cls ≠ m.classes → ∃ e, assemble m ops = .error e

/-- R104: each pseudo-instruction assembles to the one command the rule names, which runs with the meaning it gives; the
spec derives the rule from R97 and R163. -/
def Obligations.PseudoInstructions : Prop :=
  ∀ (s : State) (d a : Reg),
    assemble .mov [⟨.v, d⟩, ⟨.v, a⟩] = .ok (.or d a a) ∧ assemble .clr [⟨.v, d⟩] = .ok (.zero d) ∧
    assemble .tstz [⟨.s, d⟩, ⟨.v, a⟩] = .ok (.isZero d a) ∧
    (∃ t, exec (.or d a a) s = .next t ∧ Completes [d] [] s t ∧ t.cf = s.cf ∧ t.vreg d = s.vreg a) ∧
    (∃ t, exec (.zero d) s = .next t ∧ Completes [d] [] s t ∧ t.cf = s.cf ∧ t.vreg d = 0) ∧
    (∃ t, exec (.isZero d a) s = .next t ∧ Completes [] [d] s t ∧ t.cf = s.cf ∧
      t.sreg d = if s.vreg a = 0 then 1 else 0)

/-! ### What each command does -/

/-- R120-R122: NOP, CLC, STC. -/
def Obligations.ControlCommands : Prop :=
  ∀ s : State,
    IsCommand .nop (wordOf 0x00 0 0 0 0 0) [] ∧
    IsCommand .clc (wordOf 0x01 0 0 0 0 0) [] ∧
    IsCommand .stc (wordOf 0x02 0 0 0 0 0) [] ∧
    (∃ t, exec .nop s = .next t ∧ Completes [] [] s t ∧ t.cf = s.cf) ∧
    (∃ t, exec .clc s = .next t ∧ Completes [] [] s t ∧ t.cf = false) ∧
    (∃ t, exec .stc s = .next t ∧ Completes [] [] s t ∧ t.cf = true)

/-- R123-R125: ZERO, ONE, MAX; each limb of MAX is all ones. -/
def Obligations.ConstantCommands : Prop :=
  ∀ (s : State) (rd : Reg),
    IsCommand (.zero rd) (wordOf 0x10 rd 0 0 0 0) [] ∧
    IsCommand (.one rd) (wordOf 0x11 rd 0 0 0 0) [] ∧
    IsCommand (.max rd) (wordOf 0x12 rd 0 0 0 0) [] ∧
    (∃ t, exec (.zero rd) s = .next t ∧ Completes [rd] [] s t ∧ t.cf = s.cf ∧ t.vreg rd = 0) ∧
    (∃ t, exec (.one rd) s = .next t ∧ Completes [rd] [] s t ∧ t.cf = s.cf ∧ t.vreg rd = 1) ∧
    (∃ t, exec (.max rd) s = .next t ∧ Completes [rd] [] s t ∧ t.cf = s.cf ∧ t.vreg rd + 1 = 2 ^ s.bits ∧
      ∀ j < s.width.limbs, limbOf (t.vreg rd) j = 0xFFFFFFFFFFFFFFFF)

/-- R126-R129: the widening constructors zero-extend; FROM512 at W = 1024 only. -/
def Obligations.WideningConstructors : Prop :=
  ∀ (s : State) (rd ra : Reg),
    IsCommand (.from64 rd ra) (wordOf 0x13 rd 0 ra 0 0) [.s ra] ∧
    IsCommand (.from128 rd ra) (wordOf 0x14 rd 0 ra 0 0) [.v ra (.limbs 2)] ∧
    IsCommand (.from256 rd ra) (wordOf 0x15 rd 0 ra 0 0) [.v ra (.limbs 4)] ∧
    IsCommand (.from512 rd ra) (wordOf 0x16 rd 0 ra 0 0) [.v ra (.limbs 8)] ∧
    (∃ t, exec (.from64 rd ra) s = .next t ∧ Completes [rd] [] s t ∧ t.cf = s.cf ∧ t.vreg rd = (s.sreg ra).toNat) ∧
    (∃ t, exec (.from128 rd ra) s = .next t ∧ Completes [rd] [] s t ∧ t.cf = s.cf ∧ t.vreg rd = s.vreg ra % 2 ^ 128) ∧
    (∃ t, exec (.from256 rd ra) s = .next t ∧ Completes [rd] [] s t ∧ t.cf = s.cf ∧ t.vreg rd = s.vreg ra % 2 ^ 256) ∧
    (s.width = .w1024 → ∃ t, exec (.from512 rd ra) s = .next t ∧ Completes [rd] [] s t ∧ t.cf = s.cf ∧
      t.vreg rd = s.vreg ra % 2 ^ 512) ∧
    (s.width = .w512 → ∃ t, exec (.from512 rd ra) s = .next t ∧ Faults .illegalCommand s t)

/-- R140-R143: ISZERO, EQ, CMP, unsigned; the three results of a compare as 64-bit two's complement. -/
def Obligations.PredicateCommands : Prop :=
  ∀ (s : State) (rd ra rb : Reg),
    IsCommand (.isZero rd ra) (wordOf 0x20 rd 0 ra 0 0) [.v ra .full] ∧
    IsCommand (.eq rd ra rb) (wordOf 0x21 rd 0 ra rb 0) [.v ra .full, .v rb .full] ∧
    IsCommand (.cmp rd ra rb) (wordOf 0x22 rd 0 ra rb 0) [.v ra .full, .v rb .full] ∧
    (∃ t, exec (.isZero rd ra) s = .next t ∧ Completes [] [rd] s t ∧ t.cf = s.cf ∧
      t.sreg rd = if s.vreg ra = 0 then 1 else 0) ∧
    (∃ t, exec (.eq rd ra rb) s = .next t ∧ Completes [] [rd] s t ∧ t.cf = s.cf ∧
      t.sreg rd = if s.vreg ra = s.vreg rb then 1 else 0) ∧
    (∃ t, exec (.cmp rd ra rb) s = .next t ∧ Completes [] [rd] s t ∧ t.cf = s.cf ∧
      (t.sreg rd).toInt = if s.vreg ra < s.vreg rb then -1 else if s.vreg ra = s.vreg rb then 0 else 1)

/-- R144, R145: the half-width compares, in the halves of the rule: a non-zero high half makes u the greater. -/
def Obligations.HalfWidthCompares : Prop :=
  ∀ (s : State) (rd ra rb : Reg),
    IsCommand (.eqH rd ra rb) (wordOf 0x23 rd 0 ra rb 0) [.v ra .full, .v rb .half] ∧
    IsCommand (.cmpH rd ra rb) (wordOf 0x24 rd 0 ra rb 0) [.v ra .full, .v rb .half] ∧
    (∃ t, exec (.eqH rd ra rb) s = .next t ∧ Completes [] [rd] s t ∧ t.cf = s.cf ∧
      t.sreg rd = if hiHalf s.half (s.vreg ra) = 0 ∧ loHalf s.half (s.vreg ra) = loHalf s.half (s.vreg rb)
        then 1 else 0) ∧
    (∃ t, exec (.cmpH rd ra rb) s = .next t ∧ Completes [] [rd] s t ∧ t.cf = s.cf ∧
      (t.sreg rd).toInt =
        if hiHalf s.half (s.vreg ra) ≠ 0 then 1
        else if loHalf s.half (s.vreg ra) < loHalf s.half (s.vreg rb) then -1
        else if loHalf s.half (s.vreg ra) = loHalf s.half (s.vreg rb) then 0 else 1)

/-- R161-R165: the full-width bitwise commands, bit by bit. -/
def Obligations.BitwiseCommands : Prop :=
  ∀ (s : State) (rd ra rb : Reg),
    IsCommand (.not rd ra) (wordOf 0x30 rd 0 ra 0 0) [.v ra .full] ∧
    IsCommand (.and rd ra rb) (wordOf 0x31 rd 0 ra rb 0) [.v ra .full, .v rb .full] ∧
    IsCommand (.or rd ra rb) (wordOf 0x32 rd 0 ra rb 0) [.v ra .full, .v rb .full] ∧
    IsCommand (.xor rd ra rb) (wordOf 0x33 rd 0 ra rb 0) [.v ra .full, .v rb .full] ∧
    IsCommand (.andNot rd ra rb) (wordOf 0x34 rd 0 ra rb 0) [.v ra .full, .v rb .full] ∧
    (∃ t, exec (.not rd ra) s = .next t ∧ Completes [rd] [] s t ∧ t.cf = s.cf ∧
      ∀ i < s.bits, (t.vreg rd).testBit i = !(s.vreg ra).testBit i) ∧
    (∃ t, exec (.and rd ra rb) s = .next t ∧ Completes [rd] [] s t ∧ t.cf = s.cf ∧
      ∀ i < s.bits, (t.vreg rd).testBit i = ((s.vreg ra).testBit i && (s.vreg rb).testBit i)) ∧
    (∃ t, exec (.or rd ra rb) s = .next t ∧ Completes [rd] [] s t ∧ t.cf = s.cf ∧
      ∀ i < s.bits, (t.vreg rd).testBit i = ((s.vreg ra).testBit i || (s.vreg rb).testBit i)) ∧
    (∃ t, exec (.xor rd ra rb) s = .next t ∧ Completes [rd] [] s t ∧ t.cf = s.cf ∧
      ∀ i < s.bits, (t.vreg rd).testBit i = ((s.vreg ra).testBit i ^^ (s.vreg rb).testBit i)) ∧
    (∃ t, exec (.andNot rd ra rb) s = .next t ∧ Completes [rd] [] s t ∧ t.cf = s.cf ∧
      ∀ i < s.bits, (t.vreg rd).testBit i = ((s.vreg ra).testBit i && !(s.vreg rb).testBit i))

/-- R160, R166-R169: the half-width bitwise commands, by the table of R160. That AND.H clears the high half is the spec's own
decision between two sentences of its source (C1, D25, I7; DEDUCED, assumption log 11). -/
def Obligations.HalfWidthBitwiseCommands : Prop :=
  ∀ (s : State) (rd ra rb : Reg),
    IsCommand (.andH rd ra rb) (wordOf 0x35 rd 0 ra rb 0) [.v ra .full, .v rb .half] ∧
    IsCommand (.orH rd ra rb) (wordOf 0x36 rd 0 ra rb 0) [.v ra .full, .v rb .half] ∧
    IsCommand (.xorH rd ra rb) (wordOf 0x37 rd 0 ra rb 0) [.v ra .full, .v rb .half] ∧
    IsCommand (.andNotH rd ra rb) (wordOf 0x38 rd 0 ra rb 0) [.v ra .full, .v rb .half] ∧
    (∃ t, exec (.andH rd ra rb) s = .next t ∧ Completes [rd] [] s t ∧ t.cf = s.cf ∧
      loHalf s.half (t.vreg rd) = loHalf s.half (s.vreg ra) &&& loHalf s.half (s.vreg rb) ∧
      hiHalf s.half (t.vreg rd) = 0) ∧
    (∃ t, exec (.orH rd ra rb) s = .next t ∧ Completes [rd] [] s t ∧ t.cf = s.cf ∧
      loHalf s.half (t.vreg rd) = loHalf s.half (s.vreg ra) ||| loHalf s.half (s.vreg rb) ∧
      hiHalf s.half (t.vreg rd) = hiHalf s.half (s.vreg ra)) ∧
    (∃ t, exec (.xorH rd ra rb) s = .next t ∧ Completes [rd] [] s t ∧ t.cf = s.cf ∧
      loHalf s.half (t.vreg rd) = loHalf s.half (s.vreg ra) ^^^ loHalf s.half (s.vreg rb) ∧
      hiHalf s.half (t.vreg rd) = hiHalf s.half (s.vreg ra)) ∧
    (∃ t, exec (.andNotH rd ra rb) s = .next t ∧ Completes [rd] [] s t ∧ t.cf = s.cf ∧
      loHalf s.half (t.vreg rd) = loHalf s.half (s.vreg ra) &&& complement s.half (loHalf s.half (s.vreg rb)) ∧
      hiHalf s.half (t.vreg rd) = hiHalf s.half (s.vreg ra))

/-- R180, R182, R184, R185: the wrapping forms, full and half width; CF is neither read nor written. -/
def Obligations.WrappingAddAndSubtract : Prop :=
  ∀ (s : State) (rd ra rb : Reg),
    IsCommand (.add rd ra rb) (wordOf 0x40 rd 0 ra rb 0) [.v ra .full, .v rb .full] ∧
    IsCommand (.sub rd ra rb) (wordOf 0x42 rd 0 ra rb 0) [.v ra .full, .v rb .full] ∧
    IsCommand (.addH rd ra rb) (wordOf 0x44 rd 0 ra rb 0) [.v ra .full, .v rb .half] ∧
    IsCommand (.subH rd ra rb) (wordOf 0x45 rd 0 ra rb 0) [.v ra .full, .v rb .half] ∧
    (∃ t, exec (.add rd ra rb) s = .next t ∧ Completes [rd] [] s t ∧ t.cf = s.cf ∧
      t.vreg rd = (s.vreg ra + s.vreg rb) % 2 ^ s.bits) ∧
    (∃ t, exec (.sub rd ra rb) s = .next t ∧ Completes [rd] [] s t ∧ t.cf = s.cf ∧
      (t.vreg rd : Int) = ((s.vreg ra : Int) - s.vreg rb) % 2 ^ s.bits) ∧
    (∃ t, exec (.addH rd ra rb) s = .next t ∧ Completes [rd] [] s t ∧ t.cf = s.cf ∧
      t.vreg rd = (s.vreg ra + s.vreg rb % 2 ^ s.half) % 2 ^ s.bits) ∧
    (∃ t, exec (.subH rd ra rb) s = .next t ∧ Completes [rd] [] s t ∧ t.cf = s.cf ∧
      (t.vreg rd : Int) = ((s.vreg ra : Int) - (s.vreg rb % 2 ^ s.half : Nat)) % 2 ^ s.bits)

/-- R181, R183: with the carry, ADDC's result is the exact sum; with the borrow, SUBB's is the exact difference. -/
def Obligations.AddWithCarryIsExact : Prop :=
  ∀ (s : State) (rd ra rb : Reg),
    IsCommand (.addc rd ra rb) (wordOf 0x41 rd 0 ra rb 0) [.v ra .full, .v rb .full] ∧
    IsCommand (.subb rd ra rb) (wordOf 0x43 rd 0 ra rb 0) [.v ra .full, .v rb .full] ∧
    (∃ t, exec (.addc rd ra rb) s = .next t ∧ Completes [rd] [] s t ∧
      t.cf.toNat * 2 ^ s.bits + t.vreg rd = s.vreg ra + s.vreg rb + s.cf.toNat) ∧
    (∃ t, exec (.subb rd ra rb) s = .next t ∧ Completes [rd] [] s t ∧
      (t.vreg rd : Int) - t.cf.toNat * 2 ^ s.bits = (s.vreg ra : Int) - s.vreg rb - s.cf.toNat)

/-- R200, R201: the wrapping products. -/
def Obligations.WrappingProducts : Prop :=
  ∀ (s : State) (rd ra rb : Reg),
    IsCommand (.mul rd ra rb) (wordOf 0x50 rd 0 ra rb 0) [.v ra .full, .v rb .full] ∧
    IsCommand (.mulH rd ra rb) (wordOf 0x51 rd 0 ra rb 0) [.v ra .full, .v rb .half] ∧
    (∃ t, exec (.mul rd ra rb) s = .next t ∧ Completes [rd] [] s t ∧ t.cf = s.cf ∧
      t.vreg rd = s.vreg ra * s.vreg rb % 2 ^ s.bits) ∧
    (∃ t, exec (.mulH rd ra rb) s = .next t ∧ Completes [rd] [] s t ∧ t.cf = s.cf ∧
      t.vreg rd = s.vreg ra * (s.vreg rb % 2 ^ s.half) % 2 ^ s.bits)

/-- R202: MULX's two results are the exact product, lo in rd and hi in re, also where a destination is a source; rd = re is
illegal. -/
def Obligations.WideningProductIsExact : Prop :=
  ∀ (s : State) (rd re ra rb : Reg),
    IsCommand (.mulx rd re ra rb) (wordOf 0x52 rd re ra rb 0) [.v ra .full, .v rb .full] ∧
    (rd ≠ re → ∃ t, exec (.mulx rd re ra rb) s = .next t ∧ Completes [rd, re] [] s t ∧ t.cf = s.cf ∧
      t.vreg re * 2 ^ s.bits + t.vreg rd = s.vreg ra * s.vreg rb) ∧
    (rd = re → ∃ t, exec (.mulx rd re ra rb) s = .next t ∧ Faults .illegalCommand s t)

/-- R220-R224: QUOREM and its narrowing forms obey the division law with the divisor the form reads, and a zero divisor raises
DIVIDE_BY_ZERO. QUOREM.512 is illegal at W = 512. -/
def Obligations.QuotientAndRemainder : Prop :=
  (∀ rd re ra rb : Reg,
    IsCommand (.quoRem rd re ra rb) (wordOf 0x60 rd re ra rb 0) [.v ra .full, .v rb .full] ∧
    IsCommand (.quoRem64 rd re ra rb) (wordOf 0x61 rd re ra rb 0) [.v ra .full, .v rb (.limbs 1)] ∧
    IsCommand (.quoRem128 rd re ra rb) (wordOf 0x62 rd re ra rb 0) [.v ra .full, .v rb (.limbs 2)] ∧
    IsCommand (.quoRem256 rd re ra rb) (wordOf 0x63 rd re ra rb 0) [.v ra .full, .v rb (.limbs 4)] ∧
    IsCommand (.quoRem512 rd re ra rb) (wordOf 0x64 rd re ra rb 0) [.v ra .full, .v rb (.limbs 8)]) ∧
  (∀ (s : State) (rd re ra rb : Reg), s.width = .w512 →
    ∃ t, exec (.quoRem512 rd re ra rb) s = .next t ∧ Faults .illegalCommand s t) ∧
  ∀ (s : State) (rd re ra rb : Reg) (i : Instr) (v : Nat), rd ≠ re →
    ((i = .quoRem rd re ra rb ∧ v = s.vreg rb) ∨ (i = .quoRem64 rd re ra rb ∧ v = s.vreg rb % 2 ^ 64) ∨
      (i = .quoRem128 rd re ra rb ∧ v = s.vreg rb % 2 ^ 128) ∨ (i = .quoRem256 rd re ra rb ∧ v = s.vreg rb % 2 ^ 256) ∨
      (s.width = .w1024 ∧ i = .quoRem512 rd re ra rb ∧ v = s.vreg rb % 2 ^ 512)) →
    (v ≠ 0 → ∃ t, exec i s = .next t ∧ Completes [rd, re] [] s t ∧ t.cf = s.cf ∧
      s.vreg ra = t.vreg rd * v + t.vreg re ∧ t.vreg re < v) ∧
    (v = 0 → ∃ t, exec i s = .next t ∧ Faults .divideByZero s t)

/-- R225, R301, R302, R305: DIVX divides the 2W-bit dividend; y = 0 raises DIVIDE_BY_ZERO, else y ≤ hi raises
QUOTIENT_OVERFLOW; rd = re is illegal. -/
def Obligations.WideningDivision : Prop :=
  ∀ (s : State) (rd re ra rb rc : Reg),
    IsCommand (.divx rd re ra rb rc) (wordOf 0x65 rd re ra rb rc) [.v ra .full, .v rb .full, .v rc .full] ∧
    (rd = re → ∃ t, exec (.divx rd re ra rb rc) s = .next t ∧ Faults .illegalCommand s t) ∧
    (rd ≠ re → s.vreg rc = 0 → ∃ t, exec (.divx rd re ra rb rc) s = .next t ∧ Faults .divideByZero s t) ∧
    (rd ≠ re → 0 < s.vreg rc → s.vreg rc ≤ s.vreg ra →
      ∃ t, exec (.divx rd re ra rb rc) s = .next t ∧ Faults .quotientOverflow s t) ∧
    (rd ≠ re → s.vreg ra < s.vreg rc →
      ∃ t, exec (.divx rd re ra rb rc) s = .next t ∧ Completes [rd, re] [] s t ∧ t.cf = s.cf ∧
        s.vreg ra * 2 ^ s.bits + s.vreg rb = t.vreg rd * s.vreg rc + t.vreg re ∧ t.vreg re < s.vreg rc)

/-- R250, R251: the shift laws, for every unsigned 64-bit amount, the amounts from W up among them. -/
def Obligations.ShiftLaws : Prop :=
  ∀ (s : State) (rd ra rb : Reg),
    IsCommand (.lsh rd ra rb) (wordOf 0x70 rd 0 ra rb 0) [.v ra .full, .s rb] ∧
    IsCommand (.rsh rd ra rb) (wordOf 0x71 rd 0 ra rb 0) [.v ra .full, .s rb] ∧
    (∃ t, exec (.lsh rd ra rb) s = .next t ∧ Completes [rd] [] s t ∧ t.cf = s.cf ∧
      t.vreg rd = s.vreg ra * 2 ^ (s.sreg rb).toNat % 2 ^ s.bits) ∧
    (∃ t, exec (.rsh rd ra rb) s = .next t ∧ Completes [rd] [] s t ∧ t.cf = s.cf ∧
      t.vreg rd = s.vreg ra / 2 ^ (s.sreg rb).toNat)

/-- R270-R273: BITLEN is the least length that holds the value, CLZ is W less that, CTZ the greatest power of two that divides
it (W for 0), POPCNT the number of one bits. The counts of 0 (BITLEN 0, CLZ and CTZ W) rest on leaf values the spec takes
from general knowledge (R14, D24, I5; PRESUMED, assumption log 10). -/
def Obligations.CountCommands : Prop :=
  ∀ (s : State) (rd ra : Reg),
    IsCommand (.bitLen rd ra) (wordOf 0x80 rd 0 ra 0 0) [.v ra .full] ∧
    IsCommand (.clz rd ra) (wordOf 0x81 rd 0 ra 0 0) [.v ra .full] ∧
    IsCommand (.ctz rd ra) (wordOf 0x82 rd 0 ra 0 0) [.v ra .full] ∧
    IsCommand (.popcnt rd ra) (wordOf 0x83 rd 0 ra 0 0) [.v ra .full] ∧
    (∃ t, exec (.bitLen rd ra) s = .next t ∧ Completes [] [rd] s t ∧ t.cf = s.cf ∧
      s.vreg ra < 2 ^ (t.sreg rd).toNat ∧ ∀ m, s.vreg ra < 2 ^ m → (t.sreg rd).toNat ≤ m) ∧
    (∃ t l, exec (.clz rd ra) s = .next t ∧ Completes [] [rd] s t ∧ t.cf = s.cf ∧
      s.vreg ra < 2 ^ l ∧ (∀ m, s.vreg ra < 2 ^ m → l ≤ m) ∧ (t.sreg rd).toNat + l = s.bits) ∧
    (∃ t, exec (.ctz rd ra) s = .next t ∧ Completes [] [rd] s t ∧ t.cf = s.cf ∧
      (s.vreg ra = 0 → (t.sreg rd).toNat = s.bits) ∧
      (s.vreg ra ≠ 0 → 2 ^ (t.sreg rd).toNat ∣ s.vreg ra ∧ ¬ 2 ^ ((t.sreg rd).toNat + 1) ∣ s.vreg ra)) ∧
    (∃ t, exec (.popcnt rd ra) s = .next t ∧ Completes [] [rd] s t ∧ t.cf = s.cf ∧
      (t.sreg rd).toNat = (List.range s.bits).countP (fun i => (s.vreg ra).testBit i))

/-- R274: BIT takes a signed index; inside [0, W) it is that bit of the value, outside 0. -/
def Obligations.BitCommand : Prop :=
  ∀ (s : State) (rd ra rb : Reg),
    IsCommand (.bit rd ra rb) (wordOf 0x84 rd 0 ra rb 0) [.v ra .full, .s rb] ∧
    ∃ t, exec (.bit rd ra rb) s = .next t ∧ Completes [] [rd] s t ∧ t.cf = s.cf ∧
      t.sreg rd = if 0 ≤ (s.sreg rb).toInt ∧ (s.sreg rb).toInt < s.bits ∧
        (s.vreg ra).testBit (s.sreg rb).toInt.toNat = true then 1 else 0

/-- R275, R276: REV maps bit i to bit W-1-i, REVB byte b to byte W/8-1-b. -/
def Obligations.ReversalCommands : Prop :=
  ∀ (s : State) (rd ra : Reg),
    IsCommand (.rev rd ra) (wordOf 0x85 rd 0 ra 0 0) [.v ra .full] ∧
    IsCommand (.revB rd ra) (wordOf 0x86 rd 0 ra 0 0) [.v ra .full] ∧
    (∃ t, exec (.rev rd ra) s = .next t ∧ Completes [rd] [] s t ∧ t.cf = s.cf ∧
      ∀ i < s.bits, (t.vreg rd).testBit i = (s.vreg ra).testBit (s.bits - 1 - i)) ∧
    (∃ t, exec (.revB rd ra) s = .next t ∧ Completes [rd] [] s t ∧ t.cf = s.cf ∧
      ∀ b < s.bits / 8, byteOf (t.vreg rd) b = byteOf (s.vreg ra) (s.bits / 8 - 1 - b))

/-! ### The whole machine -/

/-- A command whose term is not well-formed at W (rd = re, or a W = 1024 command at W = 512), which the decoder never yields
(O17), takes ILLEGAL_COMMAND: the model's reading, assumption log 9. -/
def Obligations.IllFormedCommandTakesIllegal : Prop :=
  ∀ (i : Instr) (s : State), i.wellFormed s.width = false → ∃ t, exec i s = .next t ∧ Faults .illegalCommand s t

/-- R33: no command but CLC, STC, ADDC and SUBB changes CF. -/
def Obligations.OnlyFourCommandsWriteCarry : Prop :=
  ∀ (i : Instr) (s t : State), i ≠ .clc → i ≠ .stc → (∀ rd ra rb, i ≠ .addc rd ra rb ∧ i ≠ .subb rd ra rb) →
    exec i s = .next t → t.cf = s.cf

/-- R41, R306: every command ends in one of two ways: it takes a fault and writes nothing, or it completes and writes its
destinations only. No command stops the machine. -/
def Obligations.EveryCommandCompletesOrFaults : Prop :=
  ∀ (i : Instr) (s : State), ∃ t, exec i s = .next t ∧
    ((∃ code, Faults code s t) ∨ Completes (vDestinations i) (sDestinations i) s t)

/-- The fault record (FC with FCMD) stays consistent at every step, from every state in which it is: FCMD is 0 while no fault is
recorded, and a recorded fault's FCMD is a value that can raise that fault (R35, R36, R300). -/
def Obligations.EveryStepKeepsTheFaultRecord : Prop :=
  ∀ s t : State, FaultRecord s → step s = .next t → FaultRecord t

/-- The fault record is consistent at reset, at either width. -/
def Obligations.FaultRecordAtReset : Prop :=
  ∀ w : Width, FaultRecord (State.resetAt w)

/-- R15, R94, R310: a command's outcome depends on its source operands alone: two states that agree on them, on CF and on what
is in flight give the same run state, FCMD, CF and, when it completes, the same destination values. The bits above a
half-width, narrow or FROM-k operand do not matter. -/
def Obligations.OutcomeDependsOnSourcesOnly : Prop :=
  ∀ (i : Instr) (s s' t t' : State), s.width = s'.width → s.run = s'.run → s.fcmd = s'.fcmd → s.cf = s'.cf →
    (∀ src ∈ sourcesOf i, AgreeOn s s' src) → exec i s = .next t → exec i s' = .next t' →
    t.run = t'.run ∧ t.fcmd = t'.fcmd ∧ t.cf = t'.cf ∧
      (t.run = .idle → (∀ r ∈ vDestinations i, t.vreg r = t'.vreg r) ∧ ∀ r ∈ sDestinations i, t.sreg r = t'.sreg r)

/-- R2, R310, R311: no step changes W or clears a mark of the run. That every step answers a next state, an unwritten read and a
refused access included, is the model's choice (assumption logs 1 and 6), and so is the draw counter, which never goes
down (assumption log 4). -/
def Obligations.EveryStepKeepsWidthAndMarks : Prop :=
  ∀ s : State, ∃ t, step s = .next t ∧ t.width = s.width ∧ (s.refusedMark = true → t.refusedMark = true) ∧
    (s.unwrittenMark = true → t.unwrittenMark = true) ∧ s.draws ≤ t.draws

/-- R305, R310: with the core to move and no mark set, a command that reads an unwritten limb or S register is UNWRITTEN_READ in
the spec's reading, strictStep, whatever its divisor (`step` goes on, assumption log 1); one whose reads are written runs
as `exec` has it; and an illegal value is ILLEGAL_COMMAND although its sources are unwritten. The core moves when no
drawn poll is left or the host has nothing pending (assumption log 4). -/
def Obligations.UnwrittenReadStopsTheStrictRun : Prop :=
  ∀ (s : State) (c : BitVec 64) (k : Nat), s.run = .busy c k → (k = 0 ∨ s.host = []) → s.refusedMark = false →
    s.unwrittenMark = false →
    (∀ i, decode s.width c = .ok i → ¬ ReadsWritten i s → strictStep s = .fault .unwrittenRead) ∧
    (∀ i, decode s.width c = .ok i → ReadsWritten i s → strictStep s = exec i s) ∧
    (∀ e, decode s.width c = .error e → ∃ t, strictStep s = .next t ∧ Faults .illegalCommand s t)

/-! ### Programs of two or three commands, and laws -/

/-- R181: CLC and two ADDC add two 2W-bit numbers held in register pairs, exactly, the last carry in CF. -/
def Obligations.CarryChainAcrossRegisters : Prop :=
  ∀ (s : State) (d0 d1 a0 a1 b0 b1 : Reg), d0 ≠ d1 → d0 ≠ a1 → d0 ≠ b1 →
    ∃ t1 t2 t3, exec .clc s = .next t1 ∧ exec (.addc d0 a0 b0) t1 = .next t2 ∧ exec (.addc d1 a1 b1) t2 = .next t3 ∧
      (t3.cf.toNat * 2 ^ s.bits + t3.vreg d1) * 2 ^ s.bits + t3.vreg d0 =
        (s.vreg a1 * 2 ^ s.bits + s.vreg a0) + (s.vreg b1 * 2 ^ s.bits + s.vreg b0)

/-- R202, R225: MULX and then DIVX by the second factor, not 0, gives the first factor and remainder 0. -/
def Obligations.MultiplyThenDivideRoundTrip : Prop :=
  ∀ (s : State) (lo hi x y q r : Reg), lo ≠ hi → q ≠ r → lo ≠ y → hi ≠ y → s.vreg y ≠ 0 →
    ∃ t1 t2, exec (.mulx lo hi x y) s = .next t1 ∧ exec (.divx q r hi lo y) t1 = .next t2 ∧
      t2.run = .idle ∧ t2.vreg q = s.vreg x ∧ t2.vreg r = 0

/-- R253 (its second law derived by the spec): for n < W, LSH then RSH clears the top n bits, RSH then LSH the low n bits. -/
def Obligations.ShiftRoundTrips : Prop :=
  ∀ (s : State) (d a n : Reg), (s.sreg n).toNat < s.bits →
    (∃ t1 t2, exec (.lsh d a n) s = .next t1 ∧ exec (.rsh d d n) t1 = .next t2 ∧
      t2.vreg d = s.vreg a &&& (maxOf s.bits / 2 ^ (s.sreg n).toNat)) ∧
    (∃ t1 t2, exec (.rsh d a n) s = .next t1 ∧ exec (.lsh d d n) t1 = .next t2 ∧
      t2.vreg d = s.vreg a &&& (maxOf s.bits * 2 ^ (s.sreg n).toNat % 2 ^ s.bits))

/-- R161, R275, R276: NOT, REV and REVB applied twice give the value back, in place too. -/
def Obligations.InvolutionsOfTheBitLayer : Prop :=
  ∀ (s : State) (d a : Reg),
    (∃ t1 t2, exec (.not d a) s = .next t1 ∧ exec (.not d d) t1 = .next t2 ∧ t2.vreg d = s.vreg a) ∧
    (∃ t1 t2, exec (.rev d a) s = .next t1 ∧ exec (.rev d d) t1 = .next t2 ∧ t2.vreg d = s.vreg a) ∧
    (∃ t1 t2, exec (.revB d a) s = .next t1 ∧ exec (.revB d d) t1 = .next t2 ∧ t2.vreg d = s.vreg a)

/-! ### The source's algorithms compute the closed forms -/

/-- R186: the carry chain and the borrow chain, by halves down to 64-bit limbs, are AddC and SubB, at every width 64·2^n. The
spec marks the equality as derived. -/
def Obligations.CarryChainComputesTheSum : Prop :=
  ∀ n x y c : Nat, x < 2 ^ (64 * 2 ^ n) → y < 2 ^ (64 * 2 ^ n) → c ≤ 1 →
    carryChain n x y c = addC (64 * 2 ^ n) x y c ∧ borrowChain n x y c = subB (64 * 2 ^ n) x y c

/-- R203, R204: the schoolbook multiplier is MulX at every width 64·2^n, and the wrapping one is the product mod 2^(2k).
The spec marks both as derived. -/
def Obligations.MultipliersComputeTheProduct : Prop :=
  (∀ n x y : Nat, x < 2 ^ (64 * 2 ^ n) → y < 2 ^ (64 * 2 ^ n) → schoolbook n x y = mulX (64 * 2 ^ n) x y) ∧
  ∀ k u v : Nat, u < 2 ^ (2 * k) → v < 2 ^ (2 * k) → wrappingMul k u v = trunc (2 * k) (u * v)

/-- R227, R228: the half-width and the further-narrowing QuoRem give quotient and remainder, and a zero divisor
divide-by-zero. The spec marks both as derived. -/
def Obligations.NarrowDividersComputeTheQuotient : Prop :=
  (∀ k u v : Nat, u < 2 ^ (2 * k) → v < 2 ^ k →
    quoRemHalf k u v = if v = 0 then .error .divideByZero else .ok (u / v, u % v)) ∧
  ∀ k n u v : Nat, 0 < n → u < 2 ^ (k * n) → v < 2 ^ k →
    quoRemNarrow k n u v 0 = if v = 0 then .error .divideByZero else .ok (u / v, u % v)

/-- R226, R231: the full-width QuoRem with its one correction gives quotient and remainder; divisor 0 fails with
divide-by-zero, and no internal division fails otherwise. The spec marks both as derived. -/
def Obligations.FullDividerComputesTheQuotient : Prop :=
  ∀ k u v : Nat, 0 < k → u < 2 ^ (2 * k) → v < 2 ^ (2 * k) →
    quoRemFull k u v = if v = 0 then .error .divideByZero else .ok (u / v, u % v)

/-- R229: the normalised two-digit loop gives quotient and remainder of the 2W-bit dividend (derived, the spec says). The bound
`fuel` on the corrections of a digit is the model's (DESIGN CHOICE, assumption log 16); that two are enough is what R230
observed and did not prove (I15), and any greater bound gives the same. -/
def Obligations.WideningDividerComputesTheQuotient : Prop :=
  ∀ k fuel hi lo y : Nat, 0 < k → 2 ≤ fuel → lo < 2 ^ (2 * k) → y < 2 ^ (2 * k) → hi < y →
    widenDiv k fuel hi lo y = .ok (pair (2 * k) hi lo / y, pair (2 * k) hi lo % y)

/-- R252: the word funnel gives the shift laws, for every amount, at any number of limbs. The spec marks it as derived. -/
def Obligations.WordFunnelComputesTheShift : Prop :=
  ∀ l u n : Nat, u < 2 ^ (64 * l) →
    fromLimbs l (lshLimb l u n) = trunc (64 * l) (u * 2 ^ n) ∧ fromLimbs l (rshLimb l u n) = u / 2 ^ n

/-! ### What the assembler refuses -/

/-- R311: the assembler refuses by name and line. A wrong number of operands is refused naming the mnemonic, operands of which
one has the wrong class naming the first such; a line whose mnemonic is not known naming it, one with an operand that is
no register naming the first such (the last two by the text's own characters); and a text with a refused line is refused
at the number of the first such line, for that line's reason. The form of the names and of a line is the model's
(assumption log 14), and so is which of several reasons, operands or lines is the one named (assumption log 18). -/
def Obligations.AssemblerRefusesByNameAndLine : Prop :=
  (∀ (m : Mnemonic) (ops : List AsmReg), ops.length ≠ m.classes.length → assemble m ops = .error (.wrongCount m)) ∧
  (∀ (m : Mnemonic) (pre post : List AsmReg) (r : AsmReg), (pre ++ r :: post).length = m.classes.length →
    pre.map AsmReg.cls = m.classes.take pre.length → m.classes[pre.length]? ≠ some r.cls →
    assemble m (pre ++ r :: post) = .error (.wrongClass r)) ∧
  (∀ line : List Char, parseMnemonic (mnemonicText line) = none →
    assembleLine line = .error (.unknownMnemonic (mnemonicText line))) ∧
  (∀ (line : List Char) (m : Mnemonic) (pre post : List (List Char)) (w : List Char),
    parseMnemonic (mnemonicText line) = some m →
    operandTexts ((trimBlanks line).dropWhile (· != ' ')) = pre ++ w :: post →
    (∀ p ∈ pre, parseReg p ≠ none) → parseReg w = none → assembleLine line = .error (.badRegister w)) ∧
  ∀ (n : Nat) (before after : List (List Char)) (line : List Char) (e : AsmError),
    (∀ l ∈ before, ∃ i, assembleLine l = .ok i) → assembleLine line = .error e →
    assembleText n (before ++ line :: after) = .error (n + before.length, e)

/-! ### What a claim about a host program may assume -/

/-- R356, R351: every step that serves an accepted read records BUSY as it stood at that read, and every other step keeps the
record; so after a CR read that answers BUSY = 1 the premises of a claim fail, whether or not the command has ended
since, until another read is accepted. That a refused read is no read here, and that the record stays over a reset, is the
model's choice (assumption log 19). -/
def Obligations.EveryStepRecordsBusyAtTheLastRead : Prop :=
  (∀ s : State, ∃ t, step s = .next t ∧
    (∀ off size rest, s.host = .read off size :: rest → HostMoves s → ¬ IsRefused s (.read off size) →
      t.busyAtLastRead = s.busy) ∧
    ((∀ off size rest, s.host = .read off size :: rest → HostMoves s → IsRefused s (.read off size)) →
      t.busyAtLastRead = s.busyAtLastRead)) ∧
  ∀ s t : State, s.busyAtLastRead = true → ClaimPremises t → step s = .next t →
    ∃ off size, s.host = [.read off size] ∧ s.busy = false
end

