-- ==== Sys2Proof/Laws/Assembler.lean ====
section
/-! SUPPORT. What the assembler's operations answer: the first operand of the wrong class, the command a mnemonic stands for, and
the registers of a list of operand texts. -/

namespace Sys2Proof.Machine

/-- Operands of the classes asked for: none is wrong. -/
theorem firstWrongClass_eq_none (cs : List RegClass) (ops : List AsmReg) (h : ops.map AsmReg.cls = cs) :
    firstWrongClass cs ops = none := by
  subst h
  induction ops with
  | nil => rfl
  | cons r rs ih => simp [firstWrongClass, ih]

/-- As many operands as asked for, not all of the class asked for: some operand is the first wrong one. -/
theorem firstWrongClass_isSome (cs : List RegClass) (ops : List AsmReg) (hl : ops.length = cs.length) (h : ops.map AsmReg.cls ≠ cs) :
    ∃ r, firstWrongClass cs ops = some r := by
  induction ops generalizing cs with
  | nil => cases cs with
    | nil => simp at h
    | cons => simp at hl
  | cons r rs ih =>
    cases cs with
    | nil => simp at hl
    | cons c cs =>
      simp only [firstWrongClass]
      by_cases hc : r.cls = c
      · simp only [hc, if_true]
        exact ih cs (by simpa using hl) (by intro h'; apply h; simp [hc, h'])
      · simp [hc]

/-- The first wrong operand is the one after those of the classes asked for. -/
theorem firstWrongClass_append (cs : List RegClass) (pre post : List AsmReg) (r : AsmReg) 
    (hl : (pre ++ r :: post).length = cs.length)
    (h1 : pre.map AsmReg.cls = cs.take pre.length) (h2 : cs[pre.length]? ≠ some r.cls) :
    firstWrongClass cs (pre ++ r :: post) = some r := by
  induction pre generalizing cs with
  | nil => cases cs with
    | nil => simp at hl
    | cons c cs => simp at h2; simp [firstWrongClass, Ne.symm h2]
  | cons p pre ih => cases cs with
    | nil => simp at hl
    | cons c cs =>
      simp at h1 h2 hl
      simp [firstWrongClass, h1.1]
      exact ih cs (by simpa using hl) h1.2 h2

/-- A mnemonic with as many registers as it takes stands for a command. -/
theorem Mnemonic.expand_isSome (m : Mnemonic) (ops : List AsmReg) (h : ops.length = m.classes.length) :
    ∃ i, m.expand (ops.map AsmReg.num) = some i := by
  match m, ops with
  | .mov, [_, _] => exact ⟨_, rfl⟩
  | .tstz, [_, _] => exact ⟨_, rfl⟩
  | .clr, [_] => exact ⟨_, rfl⟩
  | .core op, ops =>
    rcases ops with _ | ⟨_, _ | ⟨_, _ | ⟨_, _ | ⟨_, _ | ⟨_, _ | ⟨_, _⟩⟩⟩⟩⟩⟩ <;> cases op <;>
      first | exact ⟨_, rfl⟩ | cases h
  | .mov, [] => cases h
  | .mov, [_] => cases h
  | .mov, _ :: _ :: _ :: _ => simp [Mnemonic.classes] at h
  | .tstz, [] => cases h
  | .tstz, [_] => cases h
  | .tstz, _ :: _ :: _ :: _ => simp [Mnemonic.classes] at h
  | .clr, [] => cases h
  | .clr, _ :: _ :: _ => simp [Mnemonic.classes] at h

/-- The first operand text that is no register is the one refused. -/
theorem parseRegs_append (pre post : List (List Char)) (w : List Char) (h : ∀ p ∈ pre, parseReg p ≠ none) (hw : parseReg w = none) :
    parseRegs (pre ++ w :: post) = .error (.badRegister w) := by
  induction pre with
  | nil => simp [parseRegs, hw]
  | cons p pre ih =>
    cases hp : parseReg p with
    | none => exact absurd hp (h p (by simp))
    | some r => simp [parseRegs, hp, ih (fun q hq => h q (by simp [hq]))]; rfl

end Sys2Proof.Machine
end

