-- ==== Sys2Proof/Laws/Encoding.lean ====
section
/-! SUPPORT. The fields of a packed word read back, and the opcode map is one to one. -/

namespace Sys2Proof

/-- An OP value of the map is one byte. -/
theorem Opcode.byte_lt (op : Opcode) : op.byte < 256 := by cases op <;> decide

/-- Looking an opcode's OP value up gives the opcode back: no two rows of the map share an OP value (R97). -/
theorem Opcode.ofByte_byte (op : Opcode) : Opcode.ofByte op.byte = some op := by cases op <;> rfl

/-- What the map finds for a byte has that byte. -/
theorem Opcode.byte_of_ofByte {b : Nat} {op : Opcode} (h : Opcode.ofByte b = some op) : op.byte = b := by
  have := List.find?_some h
  simpa using this

/-- A packed word has 28 bits: bits [31:28] are 0 (R91). -/
theorem packWord_lt (b : Nat) (hb : b < 256) (f : Fields) : packWord b f < 2 ^ 28 := by
  obtain ⟨⟨rd, h1⟩, ⟨re, h2⟩, ⟨ra, h3⟩, ⟨rb, h4⟩, ⟨rc, h5⟩⟩ := f
  simp only [packWord]
  omega

/-- The OP byte of a packed word. -/
theorem opByte_packWord (b : Nat) (hb : b < 256) (f : Fields) : bitSlice (packWord b f) 0 8 = b := by
  obtain ⟨⟨rd, h1⟩, ⟨re, h2⟩, ⟨ra, h3⟩, ⟨rb, h4⟩, ⟨rc, h5⟩⟩ := f
  simp only [packWord, bitSlice]
  omega

/-- The register fields of a packed word. -/
theorem fieldsOf_packWord (b : Nat) (hb : b < 256) (f : Fields) : fieldsOf (packWord b f) = f := by
  obtain ⟨⟨rd, h1⟩, ⟨re, h2⟩, ⟨ra, h3⟩, ⟨rb, h4⟩, ⟨rc, h5⟩⟩ := f
  simp only [fieldsOf, regField, packWord, bitSlice, Fields.mk.injEq, Fin.mk.injEq]
  omega

end Sys2Proof
end

