-- ==== Sys2Proof/Laws/State.lean ====
section
/-! SUPPORT. One lemma per field of State per update, each by rfl and tagged simp, so that no proof unfolds a record update. -/

namespace Sys2Proof.Machine

@[simp] theorem State.setV_v (s : State) (r : Reg) (n : Nat) : (s.setV r n).v = s.v.put r n := rfl
@[simp] theorem State.setV_s (s : State) (r : Reg) (n : Nat) : (s.setV r n).s = s.s := rfl
@[simp] theorem State.setV_cf (s : State) (r : Reg) (n : Nat) : (s.setV r n).cf = s.cf := rfl
@[simp] theorem State.setV_run (s : State) (r : Reg) (n : Nat) : (s.setV r n).run = s.run := rfl
@[simp] theorem State.setV_fcmd (s : State) (r : Reg) (n : Nat) : (s.setV r n).fcmd = s.fcmd := rfl
@[simp] theorem State.setV_refusedMark (s : State) (r : Reg) (n : Nat) : (s.setV r n).refusedMark = s.refusedMark := rfl
@[simp] theorem State.setV_unwrittenMark (s : State) (r : Reg) (n : Nat) : (s.setV r n).unwrittenMark = s.unwrittenMark := rfl
@[simp] theorem State.setV_busyAtLastRead (s : State) (r : Reg) (n : Nat) : (s.setV r n).busyAtLastRead = s.busyAtLastRead := rfl
@[simp] theorem State.setV_host (s : State) (r : Reg) (n : Nat) : (s.setV r n).host = s.host := rfl
@[simp] theorem State.setV_answers (s : State) (r : Reg) (n : Nat) : (s.setV r n).answers = s.answers := rfl
@[simp] theorem State.setV_draws (s : State) (r : Reg) (n : Nat) : (s.setV r n).draws = s.draws := rfl

@[simp] theorem State.setLimb_v (s : State) (r : Reg) (j : Nat) (x : Limb) : (s.setLimb r j x).v = s.v.putLimb r j x := rfl
@[simp] theorem State.setLimb_s (s : State) (r : Reg) (j : Nat) (x : Limb) : (s.setLimb r j x).s = s.s := rfl
@[simp] theorem State.setLimb_cf (s : State) (r : Reg) (j : Nat) (x : Limb) : (s.setLimb r j x).cf = s.cf := rfl
@[simp] theorem State.setLimb_run (s : State) (r : Reg) (j : Nat) (x : Limb) : (s.setLimb r j x).run = s.run := rfl
@[simp] theorem State.setLimb_fcmd (s : State) (r : Reg) (j : Nat) (x : Limb) : (s.setLimb r j x).fcmd = s.fcmd := rfl
@[simp] theorem State.setLimb_refusedMark (s : State) (r : Reg) (j : Nat) (x : Limb) : (s.setLimb r j x).refusedMark = s.refusedMark := rfl
@[simp] theorem State.setLimb_unwrittenMark (s : State) (r : Reg) (j : Nat) (x : Limb) : (s.setLimb r j x).unwrittenMark = s.unwrittenMark := rfl
@[simp] theorem State.setLimb_busyAtLastRead (s : State) (r : Reg) (j : Nat) (x : Limb) : (s.setLimb r j x).busyAtLastRead = s.busyAtLastRead := rfl
@[simp] theorem State.setLimb_host (s : State) (r : Reg) (j : Nat) (x : Limb) : (s.setLimb r j x).host = s.host := rfl
@[simp] theorem State.setLimb_answers (s : State) (r : Reg) (j : Nat) (x : Limb) : (s.setLimb r j x).answers = s.answers := rfl
@[simp] theorem State.setLimb_draws (s : State) (r : Reg) (j : Nat) (x : Limb) : (s.setLimb r j x).draws = s.draws := rfl

@[simp] theorem State.setS_v (s : State) (r : Reg) (x : BitVec 64) : (s.setS r x).v = s.v := rfl
@[simp] theorem State.setS_s (s : State) (r : Reg) (x : BitVec 64) : (s.setS r x).s = s.s.set r.val { value := x, written := true } r.isLt := rfl
@[simp] theorem State.setS_cf (s : State) (r : Reg) (x : BitVec 64) : (s.setS r x).cf = s.cf := rfl
@[simp] theorem State.setS_run (s : State) (r : Reg) (x : BitVec 64) : (s.setS r x).run = s.run := rfl
@[simp] theorem State.setS_fcmd (s : State) (r : Reg) (x : BitVec 64) : (s.setS r x).fcmd = s.fcmd := rfl
@[simp] theorem State.setS_refusedMark (s : State) (r : Reg) (x : BitVec 64) : (s.setS r x).refusedMark = s.refusedMark := rfl
@[simp] theorem State.setS_unwrittenMark (s : State) (r : Reg) (x : BitVec 64) : (s.setS r x).unwrittenMark = s.unwrittenMark := rfl
@[simp] theorem State.setS_busyAtLastRead (s : State) (r : Reg) (x : BitVec 64) : (s.setS r x).busyAtLastRead = s.busyAtLastRead := rfl
@[simp] theorem State.setS_host (s : State) (r : Reg) (x : BitVec 64) : (s.setS r x).host = s.host := rfl
@[simp] theorem State.setS_answers (s : State) (r : Reg) (x : BitVec 64) : (s.setS r x).answers = s.answers := rfl
@[simp] theorem State.setS_draws (s : State) (r : Reg) (x : BitVec 64) : (s.setS r x).draws = s.draws := rfl

@[simp] theorem State.setCF_v (s : State) (b : Bool) : (s.setCF b).v = s.v := rfl
@[simp] theorem State.setCF_s (s : State) (b : Bool) : (s.setCF b).s = s.s := rfl
@[simp] theorem State.setCF_cf (s : State) (b : Bool) : (s.setCF b).cf = b := rfl
@[simp] theorem State.setCF_run (s : State) (b : Bool) : (s.setCF b).run = s.run := rfl
@[simp] theorem State.setCF_fcmd (s : State) (b : Bool) : (s.setCF b).fcmd = s.fcmd := rfl
@[simp] theorem State.setCF_refusedMark (s : State) (b : Bool) : (s.setCF b).refusedMark = s.refusedMark := rfl
@[simp] theorem State.setCF_unwrittenMark (s : State) (b : Bool) : (s.setCF b).unwrittenMark = s.unwrittenMark := rfl
@[simp] theorem State.setCF_busyAtLastRead (s : State) (b : Bool) : (s.setCF b).busyAtLastRead = s.busyAtLastRead := rfl
@[simp] theorem State.setCF_host (s : State) (b : Bool) : (s.setCF b).host = s.host := rfl
@[simp] theorem State.setCF_answers (s : State) (b : Bool) : (s.setCF b).answers = s.answers := rfl
@[simp] theorem State.setCF_draws (s : State) (b : Bool) : (s.setCF b).draws = s.draws := rfl

@[simp] theorem State.raise_v (s : State) (code : FaultCode) : (s.raise code).v = s.v := rfl
@[simp] theorem State.raise_s (s : State) (code : FaultCode) : (s.raise code).s = s.s := rfl
@[simp] theorem State.raise_cf (s : State) (code : FaultCode) : (s.raise code).cf = s.cf := rfl
@[simp] theorem State.raise_run (s : State) (code : FaultCode) : (s.raise code).run = .faulted code := rfl
@[simp] theorem State.raise_fcmd (s : State) (code : FaultCode) : (s.raise code).fcmd = s.cmdInFlight := rfl
@[simp] theorem State.raise_refusedMark (s : State) (code : FaultCode) : (s.raise code).refusedMark = s.refusedMark := rfl
@[simp] theorem State.raise_unwrittenMark (s : State) (code : FaultCode) : (s.raise code).unwrittenMark = s.unwrittenMark := rfl
@[simp] theorem State.raise_busyAtLastRead (s : State) (code : FaultCode) : (s.raise code).busyAtLastRead = s.busyAtLastRead := rfl
@[simp] theorem State.raise_host (s : State) (code : FaultCode) : (s.raise code).host = s.host := rfl
@[simp] theorem State.raise_answers (s : State) (code : FaultCode) : (s.raise code).answers = s.answers := rfl
@[simp] theorem State.raise_draws (s : State) (code : FaultCode) : (s.raise code).draws = s.draws := rfl

@[simp] theorem State.complete_v (s : State) : s.complete.v = s.v := rfl
@[simp] theorem State.complete_s (s : State) : s.complete.s = s.s := rfl
@[simp] theorem State.complete_cf (s : State) : s.complete.cf = s.cf := rfl
@[simp] theorem State.complete_run (s : State) : s.complete.run = .idle := rfl
@[simp] theorem State.complete_fcmd (s : State) : s.complete.fcmd = s.fcmd := rfl
@[simp] theorem State.complete_refusedMark (s : State) : s.complete.refusedMark = s.refusedMark := rfl
@[simp] theorem State.complete_unwrittenMark (s : State) : s.complete.unwrittenMark = s.unwrittenMark := rfl
@[simp] theorem State.complete_busyAtLastRead (s : State) : s.complete.busyAtLastRead = s.busyAtLastRead := rfl
@[simp] theorem State.complete_host (s : State) : s.complete.host = s.host := rfl
@[simp] theorem State.complete_answers (s : State) : s.complete.answers = s.answers := rfl
@[simp] theorem State.complete_draws (s : State) : s.complete.draws = s.draws := rfl

@[simp] theorem State.noteReads_v (s : State) (srcs : List Source) : (s.noteReads srcs).v = s.v := rfl
@[simp] theorem State.noteReads_s (s : State) (srcs : List Source) : (s.noteReads srcs).s = s.s := rfl
@[simp] theorem State.noteReads_cf (s : State) (srcs : List Source) : (s.noteReads srcs).cf = s.cf := rfl
@[simp] theorem State.noteReads_run (s : State) (srcs : List Source) : (s.noteReads srcs).run = s.run := rfl
@[simp] theorem State.noteReads_fcmd (s : State) (srcs : List Source) : (s.noteReads srcs).fcmd = s.fcmd := rfl
@[simp] theorem State.noteReads_refusedMark (s : State) (srcs : List Source) : (s.noteReads srcs).refusedMark = s.refusedMark := rfl
@[simp] theorem State.noteReads_unwrittenMark (s : State) (srcs : List Source) : (s.noteReads srcs).unwrittenMark = (s.unwrittenMark || !srcs.all s.sourceWritten) := rfl
@[simp] theorem State.noteReads_busyAtLastRead (s : State) (srcs : List Source) : (s.noteReads srcs).busyAtLastRead = s.busyAtLastRead := rfl
@[simp] theorem State.noteReads_host (s : State) (srcs : List Source) : (s.noteReads srcs).host = s.host := rfl
@[simp] theorem State.noteReads_answers (s : State) (srcs : List Source) : (s.noteReads srcs).answers = s.answers := rfl
@[simp] theorem State.noteReads_draws (s : State) (srcs : List Source) : (s.noteReads srcs).draws = s.draws := rfl

@[simp] theorem State.answer_v (s : State) (a : Answer) : (s.answer a).v = s.v := rfl
@[simp] theorem State.answer_s (s : State) (a : Answer) : (s.answer a).s = s.s := rfl
@[simp] theorem State.answer_cf (s : State) (a : Answer) : (s.answer a).cf = s.cf := rfl
@[simp] theorem State.answer_run (s : State) (a : Answer) : (s.answer a).run = s.run := rfl
@[simp] theorem State.answer_fcmd (s : State) (a : Answer) : (s.answer a).fcmd = s.fcmd := rfl
@[simp] theorem State.answer_refusedMark (s : State) (a : Answer) : (s.answer a).refusedMark = s.refusedMark := rfl
@[simp] theorem State.answer_unwrittenMark (s : State) (a : Answer) : (s.answer a).unwrittenMark = s.unwrittenMark := rfl
@[simp] theorem State.answer_busyAtLastRead (s : State) (a : Answer) : (s.answer a).busyAtLastRead = s.busyAtLastRead := rfl
@[simp] theorem State.answer_host (s : State) (a : Answer) : (s.answer a).host = s.host := rfl
@[simp] theorem State.answer_answers (s : State) (a : Answer) : (s.answer a).answers = a :: s.answers := rfl
@[simp] theorem State.answer_draws (s : State) (a : Answer) : (s.answer a).draws = s.draws := rfl

@[simp] theorem State.answerRead_v (s : State) (x : BitVec 64) : (s.answerRead x).v = s.v := rfl
@[simp] theorem State.answerRead_s (s : State) (x : BitVec 64) : (s.answerRead x).s = s.s := rfl
@[simp] theorem State.answerRead_cf (s : State) (x : BitVec 64) : (s.answerRead x).cf = s.cf := rfl
@[simp] theorem State.answerRead_run (s : State) (x : BitVec 64) : (s.answerRead x).run = s.run := rfl
@[simp] theorem State.answerRead_fcmd (s : State) (x : BitVec 64) : (s.answerRead x).fcmd = s.fcmd := rfl
@[simp] theorem State.answerRead_refusedMark (s : State) (x : BitVec 64) : (s.answerRead x).refusedMark = s.refusedMark := rfl
@[simp] theorem State.answerRead_unwrittenMark (s : State) (x : BitVec 64) : (s.answerRead x).unwrittenMark = s.unwrittenMark := rfl
@[simp] theorem State.answerRead_busyAtLastRead (s : State) (x : BitVec 64) : (s.answerRead x).busyAtLastRead = s.busy := rfl
@[simp] theorem State.answerRead_host (s : State) (x : BitVec 64) : (s.answerRead x).host = s.host := rfl
@[simp] theorem State.answerRead_answers (s : State) (x : BitVec 64) : (s.answerRead x).answers = .data x :: s.answers := rfl
@[simp] theorem State.answerRead_draws (s : State) (x : BitVec 64) : (s.answerRead x).draws = s.draws := rfl

@[simp] theorem State.refuse_v (s : State) : s.refuse.v = s.v := rfl
@[simp] theorem State.refuse_s (s : State) : s.refuse.s = s.s := rfl
@[simp] theorem State.refuse_cf (s : State) : s.refuse.cf = s.cf := rfl
@[simp] theorem State.refuse_run (s : State) : s.refuse.run = s.run := rfl
@[simp] theorem State.refuse_fcmd (s : State) : s.refuse.fcmd = s.fcmd := rfl
@[simp] theorem State.refuse_refusedMark (s : State) : s.refuse.refusedMark = true := rfl
@[simp] theorem State.refuse_unwrittenMark (s : State) : s.refuse.unwrittenMark = s.unwrittenMark := rfl
@[simp] theorem State.refuse_busyAtLastRead (s : State) : s.refuse.busyAtLastRead = s.busyAtLastRead := rfl
@[simp] theorem State.refuse_host (s : State) : s.refuse.host = s.host := rfl
@[simp] theorem State.refuse_answers (s : State) : s.refuse.answers = .busError :: s.answers := rfl
@[simp] theorem State.refuse_draws (s : State) : s.refuse.draws = s.draws := rfl

@[simp] theorem State.issue_v (s : State) (c : BitVec 64) : (s.issue c).v = s.v := rfl
@[simp] theorem State.issue_s (s : State) (c : BitVec 64) : (s.issue c).s = s.s := rfl
@[simp] theorem State.issue_cf (s : State) (c : BitVec 64) : (s.issue c).cf = s.cf := rfl
@[simp] theorem State.issue_run (s : State) (c : BitVec 64) :
    (s.issue c).run = .busy c (Config.latency s.draws c s.contents) := rfl
@[simp] theorem State.issue_fcmd (s : State) (c : BitVec 64) : (s.issue c).fcmd = s.fcmd := rfl
@[simp] theorem State.issue_refusedMark (s : State) (c : BitVec 64) : (s.issue c).refusedMark = s.refusedMark := rfl
@[simp] theorem State.issue_unwrittenMark (s : State) (c : BitVec 64) : (s.issue c).unwrittenMark = s.unwrittenMark := rfl
@[simp] theorem State.issue_busyAtLastRead (s : State) (c : BitVec 64) : (s.issue c).busyAtLastRead = s.busyAtLastRead := rfl
@[simp] theorem State.issue_host (s : State) (c : BitVec 64) : (s.issue c).host = s.host := rfl
@[simp] theorem State.issue_answers (s : State) (c : BitVec 64) : (s.issue c).answers = s.answers := rfl
@[simp] theorem State.issue_draws (s : State) (c : BitVec 64) : (s.issue c).draws = s.draws + 1 := rfl

@[simp] theorem State.resetInput_v (s : State) : s.resetInput.v = VFile.reset s.width := rfl
@[simp] theorem State.resetInput_s (s : State) : s.resetInput.s = Vector.replicate 16 SReg.reset := rfl
@[simp] theorem State.resetInput_cf (s : State) : s.resetInput.cf = false := rfl
@[simp] theorem State.resetInput_run (s : State) : s.resetInput.run = .idle := rfl
@[simp] theorem State.resetInput_fcmd (s : State) : s.resetInput.fcmd = 0 := rfl
@[simp] theorem State.resetInput_refusedMark (s : State) : s.resetInput.refusedMark = s.refusedMark := rfl
@[simp] theorem State.resetInput_unwrittenMark (s : State) : s.resetInput.unwrittenMark = s.unwrittenMark := rfl
@[simp] theorem State.resetInput_busyAtLastRead (s : State) : s.resetInput.busyAtLastRead = s.busyAtLastRead := rfl
@[simp] theorem State.resetInput_host (s : State) : s.resetInput.host = s.host := rfl
@[simp] theorem State.resetInput_answers (s : State) : s.resetInput.answers = s.answers := rfl
@[simp] theorem State.resetInput_draws (s : State) : s.resetInput.draws = s.draws := rfl

@[simp] theorem State.resetAt_width (w : Width) : (State.resetAt w).width = w := by cases w <;> rfl

@[simp] theorem VFile.reset_width (w : Width) : (VFile.reset w).width = w := by cases w <;> rfl

end Sys2Proof.Machine
end

