-- ==== Sys2Proof/Laws/Ops.lean ====
section
/-! SUPPORT. What each shared operation over the registers does: a read after a write gives the value written, and a write
leaves every other register alone. -/

namespace Sys2Proof.Machine

theorem VReg.value_put {l : Nat} (n : Nat) : (VReg.put n : VReg l).value.toNat = n % 2 ^ (64 * l) := by
  simp [VReg.put]

theorem VReg.written_put {l : Nat} (n j : Nat) :
    (VReg.put n : VReg l).written.toList.getD j false = decide (j < l) := by
  by_cases h : j < l <;> simp [VReg.put, h]

theorem VReg.value_putLimb {l : Nat} (r : VReg l) (j : Nat) (x : Limb) :
    (r.putLimb j x).value.toNat = replaceLimb r.value.toNat j x.toNat % 2 ^ (64 * l) := by
  simp [VReg.putLimb]

theorem VReg.written_putLimb {l : Nat} (r : VReg l) (i j : Nat) (x : Limb) :
    (r.putLimb j x).written.toList.getD i false =
      if i = j ∧ j < l then true else r.written.toList.getD i false := by
  by_cases h : i = j
  · subst h
    by_cases hl : i < l <;> simp [VReg.putLimb, hl]
  · have h' : j ≠ i := fun e => h e.symm
    simp [VReg.putLimb, h, h']

/-- Reading one register of a file after writing one. -/
theorem get_set {α : Type} (f : Vector α 16) (r q : Reg) (x : α) :
    (f.set r.val x r.isLt).get q = if q = r then x else f.get q := by
  by_cases h : q = r
  · subst h; simp [Vector.get_eq_getElem]
  · have h' : r.val ≠ q.val := fun e => h (Fin.ext e.symm)
    simp [Vector.get_eq_getElem, h, h']

theorem VFile.value_lt (f : VFile) (r : Reg) : f.value r < 2 ^ f.width.bits := by
  cases f <;> exact BitVec.isLt _

@[simp] theorem VFile.width_put (f : VFile) (r : Reg) (n : Nat) : (f.put r n).width = f.width := by cases f <;> rfl

@[simp] theorem VFile.width_putLimb (f : VFile) (r : Reg) (j : Nat) (x : Limb) :
    (f.putLimb r j x).width = f.width := by cases f <;> rfl

theorem VFile.value_put (f : VFile) (r q : Reg) (n : Nat) :
    (f.put r n).value q = if q = r then n % 2 ^ f.width.bits else f.value q := by
  cases f with
  | w512 g | w1024 g =>
    simp only [VFile.put, VFile.value, get_set]
    split
    · exact VReg.value_put n
    · rfl

theorem VFile.limbWritten_put (f : VFile) (r q : Reg) (n j : Nat) :
    (f.put r n).limbWritten q j = if q = r then decide (j < f.width.limbs) else f.limbWritten q j := by
  cases f with
  | w512 g | w1024 g =>
    simp only [VFile.put, VFile.limbWritten, get_set]
    split
    · exact VReg.written_put n j
    · rfl

theorem VFile.value_putLimb (f : VFile) (r q : Reg) (j : Nat) (x : Limb) :
    (f.putLimb r j x).value q =
      if q = r then replaceLimb (f.value r) j x.toNat % 2 ^ f.width.bits else f.value q := by
  cases f with
  | w512 g | w1024 g =>
    simp only [VFile.putLimb, VFile.value, get_set]
    split
    · exact VReg.value_putLimb _ j x
    · rfl

theorem VFile.limbWritten_putLimb (f : VFile) (r q : Reg) (i j : Nat) (x : Limb) :
    (f.putLimb r j x).limbWritten q i =
      if q = r ∧ i = j ∧ j < f.width.limbs then true else f.limbWritten q i := by
  cases f with
  | w512 g | w1024 g =>
    simp only [VFile.putLimb, VFile.limbWritten, get_set]
    by_cases h : q = r
    · subst h
      simp only [if_true, true_and]
      exact VReg.written_putLimb _ i j x
    · simp [h]

/-- A V register is a natural below 2^W (R31). -/
theorem State.vreg_lt (s : State) (r : Reg) : s.vreg r < 2 ^ s.bits := s.v.value_lt r

@[simp] theorem State.setV_width (s : State) (r : Reg) (n : Nat) : (s.setV r n).width = s.width := by
  simp [State.width]

theorem State.vreg_setV (s : State) (r q : Reg) (n : Nat) :
    (s.setV r n).vreg q = if q = r then n % 2 ^ s.bits else s.vreg q := VFile.value_put ..

theorem State.vWritten_setV (s : State) (r q : Reg) (n j : Nat) :
    (s.setV r n).vWritten q j = if q = r then decide (j < s.width.limbs) else s.vWritten q j := VFile.limbWritten_put ..

theorem State.vreg_setLimb (s : State) (r q : Reg) (j : Nat) (x : Limb) :
    (s.setLimb r j x).vreg q = if q = r then replaceLimb (s.vreg r) j x.toNat % 2 ^ s.bits else s.vreg q :=
  VFile.value_putLimb ..

theorem State.vWritten_setLimb (s : State) (r q : Reg) (i j : Nat) (x : Limb) :
    (s.setLimb r j x).vWritten q i = if q = r ∧ i = j ∧ j < s.width.limbs then true else s.vWritten q i :=
  VFile.limbWritten_putLimb ..

@[simp] theorem State.sreg_setV (s : State) (r q : Reg) (n : Nat) : (s.setV r n).sreg q = s.sreg q := rfl

@[simp] theorem State.sWritten_setV (s : State) (r q : Reg) (n : Nat) : (s.setV r n).sWritten q = s.sWritten q := rfl

theorem State.sreg_setS (s : State) (r q : Reg) (x : BitVec 64) :
    (s.setS r x).sreg q = if q = r then x else s.sreg q := by
  simp only [State.sreg, State.setS, get_set]
  split <;> rfl

theorem State.sWritten_setS (s : State) (r q : Reg) (x : BitVec 64) :
    (s.setS r x).sWritten q = if q = r then true else s.sWritten q := by
  simp only [State.sWritten, State.setS, get_set]
  split <;> rfl

@[simp] theorem State.vreg_setS (s : State) (r q : Reg) (x : BitVec 64) : (s.setS r x).vreg q = s.vreg q := rfl

@[simp] theorem State.vWritten_setS (s : State) (r q : Reg) (x : BitVec 64) (j : Nat) :
    (s.setS r x).vWritten q j = s.vWritten q j := rfl

/-- A host read, the reset input and fault entry aside, the operations that leave the V and S files as they are. -/
@[simp] theorem State.vreg_complete (s : State) (q : Reg) : s.complete.vreg q = s.vreg q := rfl

@[simp] theorem State.vreg_setCF (s : State) (b : Bool) (q : Reg) : (s.setCF b).vreg q = s.vreg q := rfl

@[simp] theorem State.vreg_noteReads (s : State) (l : List Source) (q : Reg) : (s.noteReads l).vreg q = s.vreg q := rfl

@[simp] theorem State.vreg_raise (s : State) (c : FaultCode) (q : Reg) : (s.raise c).vreg q = s.vreg q := rfl

@[simp] theorem State.sreg_complete (s : State) (q : Reg) : s.complete.sreg q = s.sreg q := rfl

@[simp] theorem State.sreg_setCF (s : State) (b : Bool) (q : Reg) : (s.setCF b).sreg q = s.sreg q := rfl

@[simp] theorem State.sreg_noteReads (s : State) (l : List Source) (q : Reg) : (s.noteReads l).sreg q = s.sreg q := rfl

@[simp] theorem State.sreg_raise (s : State) (c : FaultCode) (q : Reg) : (s.raise c).sreg q = s.sreg q := rfl

@[simp] theorem State.vWritten_complete (s : State) (q : Reg) (j : Nat) :
    s.complete.vWritten q j = s.vWritten q j := rfl

@[simp] theorem State.vWritten_setCF (s : State) (b : Bool) (q : Reg) (j : Nat) :
    (s.setCF b).vWritten q j = s.vWritten q j := rfl

@[simp] theorem State.sWritten_complete (s : State) (q : Reg) : s.complete.sWritten q = s.sWritten q := rfl

@[simp] theorem State.sWritten_setCF (s : State) (b : Bool) (q : Reg) : (s.setCF b).sWritten q = s.sWritten q := rfl

@[simp] theorem State.width_complete (s : State) : s.complete.width = s.width := rfl

@[simp] theorem State.width_setCF (s : State) (b : Bool) : (s.setCF b).width = s.width := rfl

@[simp] theorem State.width_setS (s : State) (r : Reg) (x : BitVec 64) : (s.setS r x).width = s.width := rfl

@[simp] theorem State.width_noteReads (s : State) (l : List Source) : (s.noteReads l).width = s.width := rfl

@[simp] theorem State.width_raise (s : State) (c : FaultCode) : (s.raise c).width = s.width := rfl

@[simp] theorem State.width_setLimb (s : State) (r : Reg) (j : Nat) (x : Limb) :
    (s.setLimb r j x).width = s.width := by simp [State.width]

@[simp] theorem State.width_resetInput (s : State) : s.resetInput.width = s.width := by
  simp [State.width]

theorem bits_eq (w : Width) : w.bits = 512 ∨ w.bits = 1024 := by cases w <;> simp [Width.bits, Width.limbs]

theorem half_eq (w : Width) : w.bits = 2 * w.half := by cases w <;> rfl

end Sys2Proof.Machine
end

