-- ==== Sys2Proof/Laws/Exec.lean ====
section
/-! SUPPORT. What each shared way of ending a command does, said once: the meanings are these operations over an operand
computation, so a proof about an instruction cites one of them and computes its value. -/

namespace Sys2Proof.Machine

open Sys2Proof.Safety

theorem KeepsRun.refl (s : State) : KeepsRun s s := ⟨rfl, rfl, rfl, rfl, rfl, rfl, rfl⟩

/-- A command with no register destination. -/
theorem retire_completes (s : State) :
    ∃ t, s.retire = .next t ∧ Completes [] [] s t ∧ t.cf = s.cf :=
  ⟨s.complete, rfl, ⟨rfl, rfl, by simp, by simp, fun _ _ => ⟨rfl, fun _ => rfl⟩, fun _ _ => ⟨rfl, rfl⟩,
    KeepsRun.refl s⟩, rfl⟩

/-- A command with one V destination: it holds the value wrapped to W bits. -/
theorem retireV_completes (s : State) (rd : Reg) (x : Nat) :
    ∃ t, s.retireV rd x = .next t ∧ Completes [rd] [] s t ∧ t.cf = s.cf ∧ t.vreg rd = x % 2 ^ s.bits := by
  refine ⟨(s.setV rd x).complete, rfl, ⟨rfl, rfl, ?_, by simp, ?_, fun _ _ => ⟨rfl, rfl⟩, ?_⟩, rfl, ?_⟩
  · simp +contextual [State.vWritten_setV]
  · intro r hr
    have hr' : r ≠ rd := by simpa using hr
    simp [State.vreg_setV, State.vWritten_setV, hr']
  · exact ⟨by simp, rfl, rfl, rfl, rfl, rfl, rfl⟩
  · simp [State.vreg_setV]

/-- A command with two V destinations, which differ. -/
theorem retireVV_completes (s : State) {rd re : Reg} (h : rd ≠ re) (x y : Nat) :
    ∃ t, s.retireVV rd re x y = .next t ∧ Completes [rd, re] [] s t ∧ t.cf = s.cf ∧
      t.vreg rd = x % 2 ^ s.bits ∧ t.vreg re = y % 2 ^ s.bits := by
  refine ⟨((s.setV rd x).setV re y).complete, rfl, ⟨rfl, rfl, ?_, by simp, ?_, fun _ _ => ⟨rfl, rfl⟩, ?_⟩, rfl, ?_, ?_⟩
  · intro r hr j hj
    by_cases h1 : r = re <;> by_cases h2 : r = rd <;> simp_all [State.vWritten_setV]
  · intro r hr
    obtain ⟨h1, h2⟩ : r ≠ rd ∧ r ≠ re := by simpa using hr
    simp [State.vreg_setV, State.vWritten_setV, h1, h2]
  · exact ⟨by simp, rfl, rfl, rfl, rfl, rfl, rfl⟩
  · simp [State.vreg_setV, h]
  · simp [State.vreg_setV, State.bits]

/-- A command with one S destination. -/
theorem retireS_completes (s : State) (rd : Reg) (x : BitVec 64) :
    ∃ t, s.retireS rd x = .next t ∧ Completes [] [rd] s t ∧ t.cf = s.cf ∧ t.sreg rd = x := by
  refine ⟨(s.setS rd x).complete, rfl, ⟨rfl, rfl, by simp, ?_, fun _ _ => ⟨rfl, fun _ => rfl⟩, ?_, KeepsRun.refl s⟩, rfl, ?_⟩
  · simp [State.sWritten_setS]
  · intro r hr
    have hr' : r ≠ rd := by simpa using hr
    simp [State.sreg_setS, State.sWritten_setS, hr']
  · simp [State.sreg_setS]

/-- What holds of a command that completes in `s` with another carry flag holds of it in `s`. -/
theorem Completes.of_setCF {vs ss : List Reg} {s t : State} {b : Bool} (h : Completes vs ss (s.setCF b) t) :
    Completes vs ss s t := h

/-- A command that takes a fault. -/
theorem takeFault_faults (s : State) (code : FaultCode) :
    ∃ t, s.takeFault code = .next t ∧ Faults code s t := by
  refine ⟨s.raise code, rfl, rfl, rfl, rfl, rfl, ?_, rfl, rfl, rfl, KeepsRun.refl s⟩
  intro c k h
  simp [State.cmdInFlight, h]

/-- Noting reads changes the UNWRITTEN_READ mark and nothing else. -/
theorem noteReads_eq (s : State) (srcs : List Source) :
    s.noteReads srcs = { s with unwrittenMark := s.unwrittenMark || !srcs.all s.sourceWritten } := rfl

end Sys2Proof.Machine
end

