-- ==== Sys2Proof/Laws/PerInstr.lean ====
section
/-! SUPPORT. Per instruction: a command is made again from its opcode and its fields, and a field its format does not use is 0
(spec/30_encoding.md R92). -/

/-- Building a command from its own opcode and fields gives it back, and its fields fit its format. -/
def Sys2Proof.Laws.Rebuild.Statement (i : Sys2Proof.Instr) : Prop :=
  i.opcode.instr i.fields = i ∧ i.opcode.format.unusedZero i.fields = true

theorem Sys2Proof.Laws.Rebuild.nop :
    Sys2Proof.Laws.Rebuild.Statement (.nop) := ⟨rfl, rfl⟩

theorem Sys2Proof.Laws.Rebuild.clc :
    Sys2Proof.Laws.Rebuild.Statement (.clc) := ⟨rfl, rfl⟩

theorem Sys2Proof.Laws.Rebuild.stc :
    Sys2Proof.Laws.Rebuild.Statement (.stc) := ⟨rfl, rfl⟩

theorem Sys2Proof.Laws.Rebuild.zero (rd : Sys2Proof.Reg) :
    Sys2Proof.Laws.Rebuild.Statement (.zero rd) := ⟨rfl, rfl⟩

theorem Sys2Proof.Laws.Rebuild.one (rd : Sys2Proof.Reg) :
    Sys2Proof.Laws.Rebuild.Statement (.one rd) := ⟨rfl, rfl⟩

theorem Sys2Proof.Laws.Rebuild.max (rd : Sys2Proof.Reg) :
    Sys2Proof.Laws.Rebuild.Statement (.max rd) := ⟨rfl, rfl⟩

theorem Sys2Proof.Laws.Rebuild.from64 (rd ra : Sys2Proof.Reg) :
    Sys2Proof.Laws.Rebuild.Statement (.from64 rd ra) := ⟨rfl, rfl⟩

theorem Sys2Proof.Laws.Rebuild.from128 (rd ra : Sys2Proof.Reg) :
    Sys2Proof.Laws.Rebuild.Statement (.from128 rd ra) := ⟨rfl, rfl⟩

theorem Sys2Proof.Laws.Rebuild.from256 (rd ra : Sys2Proof.Reg) :
    Sys2Proof.Laws.Rebuild.Statement (.from256 rd ra) := ⟨rfl, rfl⟩

theorem Sys2Proof.Laws.Rebuild.from512 (rd ra : Sys2Proof.Reg) :
    Sys2Proof.Laws.Rebuild.Statement (.from512 rd ra) := ⟨rfl, rfl⟩

theorem Sys2Proof.Laws.Rebuild.isZero (rd ra : Sys2Proof.Reg) :
    Sys2Proof.Laws.Rebuild.Statement (.isZero rd ra) := ⟨rfl, rfl⟩

theorem Sys2Proof.Laws.Rebuild.eq (rd ra rb : Sys2Proof.Reg) :
    Sys2Proof.Laws.Rebuild.Statement (.eq rd ra rb) := ⟨rfl, rfl⟩

theorem Sys2Proof.Laws.Rebuild.cmp (rd ra rb : Sys2Proof.Reg) :
    Sys2Proof.Laws.Rebuild.Statement (.cmp rd ra rb) := ⟨rfl, rfl⟩

theorem Sys2Proof.Laws.Rebuild.eqH (rd ra rb : Sys2Proof.Reg) :
    Sys2Proof.Laws.Rebuild.Statement (.eqH rd ra rb) := ⟨rfl, rfl⟩

theorem Sys2Proof.Laws.Rebuild.cmpH (rd ra rb : Sys2Proof.Reg) :
    Sys2Proof.Laws.Rebuild.Statement (.cmpH rd ra rb) := ⟨rfl, rfl⟩

theorem Sys2Proof.Laws.Rebuild.not (rd ra : Sys2Proof.Reg) :
    Sys2Proof.Laws.Rebuild.Statement (.not rd ra) := ⟨rfl, rfl⟩

theorem Sys2Proof.Laws.Rebuild.and (rd ra rb : Sys2Proof.Reg) :
    Sys2Proof.Laws.Rebuild.Statement (.and rd ra rb) := ⟨rfl, rfl⟩

theorem Sys2Proof.Laws.Rebuild.or (rd ra rb : Sys2Proof.Reg) :
    Sys2Proof.Laws.Rebuild.Statement (.or rd ra rb) := ⟨rfl, rfl⟩

theorem Sys2Proof.Laws.Rebuild.xor (rd ra rb : Sys2Proof.Reg) :
    Sys2Proof.Laws.Rebuild.Statement (.xor rd ra rb) := ⟨rfl, rfl⟩

theorem Sys2Proof.Laws.Rebuild.andNot (rd ra rb : Sys2Proof.Reg) :
    Sys2Proof.Laws.Rebuild.Statement (.andNot rd ra rb) := ⟨rfl, rfl⟩

theorem Sys2Proof.Laws.Rebuild.andH (rd ra rb : Sys2Proof.Reg) :
    Sys2Proof.Laws.Rebuild.Statement (.andH rd ra rb) := ⟨rfl, rfl⟩

theorem Sys2Proof.Laws.Rebuild.orH (rd ra rb : Sys2Proof.Reg) :
    Sys2Proof.Laws.Rebuild.Statement (.orH rd ra rb) := ⟨rfl, rfl⟩

theorem Sys2Proof.Laws.Rebuild.xorH (rd ra rb : Sys2Proof.Reg) :
    Sys2Proof.Laws.Rebuild.Statement (.xorH rd ra rb) := ⟨rfl, rfl⟩

theorem Sys2Proof.Laws.Rebuild.andNotH (rd ra rb : Sys2Proof.Reg) :
    Sys2Proof.Laws.Rebuild.Statement (.andNotH rd ra rb) := ⟨rfl, rfl⟩

theorem Sys2Proof.Laws.Rebuild.add (rd ra rb : Sys2Proof.Reg) :
    Sys2Proof.Laws.Rebuild.Statement (.add rd ra rb) := ⟨rfl, rfl⟩

theorem Sys2Proof.Laws.Rebuild.addc (rd ra rb : Sys2Proof.Reg) :
    Sys2Proof.Laws.Rebuild.Statement (.addc rd ra rb) := ⟨rfl, rfl⟩

theorem Sys2Proof.Laws.Rebuild.sub (rd ra rb : Sys2Proof.Reg) :
    Sys2Proof.Laws.Rebuild.Statement (.sub rd ra rb) := ⟨rfl, rfl⟩

theorem Sys2Proof.Laws.Rebuild.subb (rd ra rb : Sys2Proof.Reg) :
    Sys2Proof.Laws.Rebuild.Statement (.subb rd ra rb) := ⟨rfl, rfl⟩

theorem Sys2Proof.Laws.Rebuild.addH (rd ra rb : Sys2Proof.Reg) :
    Sys2Proof.Laws.Rebuild.Statement (.addH rd ra rb) := ⟨rfl, rfl⟩

theorem Sys2Proof.Laws.Rebuild.subH (rd ra rb : Sys2Proof.Reg) :
    Sys2Proof.Laws.Rebuild.Statement (.subH rd ra rb) := ⟨rfl, rfl⟩

theorem Sys2Proof.Laws.Rebuild.mul (rd ra rb : Sys2Proof.Reg) :
    Sys2Proof.Laws.Rebuild.Statement (.mul rd ra rb) := ⟨rfl, rfl⟩

theorem Sys2Proof.Laws.Rebuild.mulH (rd ra rb : Sys2Proof.Reg) :
    Sys2Proof.Laws.Rebuild.Statement (.mulH rd ra rb) := ⟨rfl, rfl⟩

theorem Sys2Proof.Laws.Rebuild.mulx (rd re ra rb : Sys2Proof.Reg) :
    Sys2Proof.Laws.Rebuild.Statement (.mulx rd re ra rb) := ⟨rfl, rfl⟩

theorem Sys2Proof.Laws.Rebuild.quoRem (rd re ra rb : Sys2Proof.Reg) :
    Sys2Proof.Laws.Rebuild.Statement (.quoRem rd re ra rb) := ⟨rfl, rfl⟩

theorem Sys2Proof.Laws.Rebuild.quoRem64 (rd re ra rb : Sys2Proof.Reg) :
    Sys2Proof.Laws.Rebuild.Statement (.quoRem64 rd re ra rb) := ⟨rfl, rfl⟩

theorem Sys2Proof.Laws.Rebuild.quoRem128 (rd re ra rb : Sys2Proof.Reg) :
    Sys2Proof.Laws.Rebuild.Statement (.quoRem128 rd re ra rb) := ⟨rfl, rfl⟩

theorem Sys2Proof.Laws.Rebuild.quoRem256 (rd re ra rb : Sys2Proof.Reg) :
    Sys2Proof.Laws.Rebuild.Statement (.quoRem256 rd re ra rb) := ⟨rfl, rfl⟩

theorem Sys2Proof.Laws.Rebuild.quoRem512 (rd re ra rb : Sys2Proof.Reg) :
    Sys2Proof.Laws.Rebuild.Statement (.quoRem512 rd re ra rb) := ⟨rfl, rfl⟩

theorem Sys2Proof.Laws.Rebuild.divx (rd re ra rb rc : Sys2Proof.Reg) :
    Sys2Proof.Laws.Rebuild.Statement (.divx rd re ra rb rc) := ⟨rfl, rfl⟩

theorem Sys2Proof.Laws.Rebuild.lsh (rd ra rb : Sys2Proof.Reg) :
    Sys2Proof.Laws.Rebuild.Statement (.lsh rd ra rb) := ⟨rfl, rfl⟩

theorem Sys2Proof.Laws.Rebuild.rsh (rd ra rb : Sys2Proof.Reg) :
    Sys2Proof.Laws.Rebuild.Statement (.rsh rd ra rb) := ⟨rfl, rfl⟩

theorem Sys2Proof.Laws.Rebuild.bitLen (rd ra : Sys2Proof.Reg) :
    Sys2Proof.Laws.Rebuild.Statement (.bitLen rd ra) := ⟨rfl, rfl⟩

theorem Sys2Proof.Laws.Rebuild.clz (rd ra : Sys2Proof.Reg) :
    Sys2Proof.Laws.Rebuild.Statement (.clz rd ra) := ⟨rfl, rfl⟩

theorem Sys2Proof.Laws.Rebuild.ctz (rd ra : Sys2Proof.Reg) :
    Sys2Proof.Laws.Rebuild.Statement (.ctz rd ra) := ⟨rfl, rfl⟩

theorem Sys2Proof.Laws.Rebuild.popcnt (rd ra : Sys2Proof.Reg) :
    Sys2Proof.Laws.Rebuild.Statement (.popcnt rd ra) := ⟨rfl, rfl⟩

theorem Sys2Proof.Laws.Rebuild.bit (rd ra rb : Sys2Proof.Reg) :
    Sys2Proof.Laws.Rebuild.Statement (.bit rd ra rb) := ⟨rfl, rfl⟩

theorem Sys2Proof.Laws.Rebuild.rev (rd ra : Sys2Proof.Reg) :
    Sys2Proof.Laws.Rebuild.Statement (.rev rd ra) := ⟨rfl, rfl⟩

theorem Sys2Proof.Laws.Rebuild.revB (rd ra : Sys2Proof.Reg) :
    Sys2Proof.Laws.Rebuild.Statement (.revB rd ra) := ⟨rfl, rfl⟩
end

