-- ==== Sys2Proof/Laws/Step.lean ====
section
/-! SUPPORT. What one step can do, said once per run state, and what the window map and the host's accesses answer. -/

namespace Sys2Proof.Machine

open Sys2Proof.Safety

theorem step_of_busy_zero {s : State} {c : BitVec 64} (h : s.run = .busy c 0) : step s = coreStep c s := by
  simp [step, move, h]

theorem step_of_busy_nil {s : State} {c : BitVec 64} {k : Nat} (h : s.run = .busy c k) (hn : s.host = []) :
    step s = coreStep c s := by
  cases k <;> simp [step, move, h, hn]

theorem step_of_busy_cons {s : State} {c : BitVec 64} {k : Nat} {e : HostEvent} {rest : List HostEvent}
    (h : s.run = .busy c (k + 1)) (hc : s.host = e :: rest) : step s = .next (busyTurn c k e rest s) := by
  simp [step, move, h, hc]

theorem step_of_not_busy {s : State} (h : s.busy = false) : step s = .next (hostTurn s) := by
  unfold State.busy at h
  unfold step move
  split <;> simp_all

/-- The machine's move, by cases: the core's step, or the host's turn, or nothing to do. -/
theorem step_cases (s : State) :
    (∃ c k, s.run = .busy c k ∧ step s = coreStep c s) ∨
    (∃ c k e rest, s.run = .busy c (k + 1) ∧ s.host = e :: rest ∧ step s = .next (busyTurn c k e rest s)) ∨
    (s.busy = false ∧ step s = .next (hostTurn s)) := by
  cases h : s.run with
  | busy c k =>
    cases k with
    | zero => exact .inl ⟨c, 0, rfl, step_of_busy_zero h⟩
    | succ k =>
      cases hc : s.host with
      | nil => exact .inl ⟨c, k + 1, rfl, step_of_busy_nil h hc⟩
      | cons e rest => exact .inr (.inl ⟨c, k, e, rest, rfl, rfl, step_of_busy_cons h hc⟩)
  | idle => exact .inr (.inr ⟨by simp [State.busy, h], step_of_not_busy (by simp [State.busy, h])⟩)
  | faulted c => exact .inr (.inr ⟨by simp [State.busy, h], step_of_not_busy (by simp [State.busy, h])⟩)

/-- The core's step, by cases: an illegal CMD value, or the meaning of the command it decodes to. -/
theorem coreStep_cases (c : BitVec 64) (s : State) :
    (∃ e, decode s.width c = .error e ∧ coreStep c s = s.takeFault .illegalCommand) ∨
    (∃ i, decode s.width c = .ok i ∧ coreStep c s = exec i (s.noteReads (sourcesOf i))) := by
  cases h : decode s.width c with
  | error e => exact .inl ⟨e, rfl, by simp [coreStep, h]⟩
  | ok i => exact .inr ⟨i, rfl, by simp [coreStep, h]⟩

theorem hostTurn_cons {s : State} {e : HostEvent} {rest : List HostEvent} (h : s.host = e :: rest) :
    hostTurn s = { s with host := rest }.serve e := by simp [hostTurn, h]

theorem slotReg_val (r : Reg) : slotReg r.val = r := by
  apply Fin.ext; simp [slotReg, Nat.mod_eq_of_lt r.isLt]

/-- Limb `j` of V[r] stands at 0x80·r + 8·j (R61). -/
theorem windowMap_limb (w : Width) (r : Reg) (j : Nat) (hj : j < w.limbs) :
    windowMap w (0x80 * r.val + 8 * j) = some (.vLimb r j) := by
  have hl : w.limbs ≤ 16 := by cases w <;> decide
  have hr := r.isLt
  have h1 : 0x80 * r.val + 8 * j < 0x800 := by omega
  have h2 : (0x80 * r.val + 8 * j) % 0x80 / 8 = j := by omega
  have h3 : (0x80 * r.val + 8 * j) / 0x80 = r.val := by omega
  rw [windowMap, if_pos h1, h2, if_pos hj, h3, slotReg_val]

/-- S[r] stands at 0x800 + 8·r (R61). -/
theorem windowMap_sreg (w : Width) (r : Reg) : windowMap w (0x800 + 8 * r.val) = some (.sReg r) := by
  have hr := r.isLt
  have h1 : ¬ (0x800 + 8 * r.val < 0x800) := by omega
  have h2 : 0x800 + 8 * r.val < 0x880 := by omega
  simp [windowMap, h1, h2, slotReg_val]

/-- A refused access answers P_BUSERR and sets the mark. -/
theorem hostRead_refused {s : State} {off size : Nat} (h : accessTarget s.width off size = none) :
    s.hostRead off size = s.refuse := by simp [State.hostRead, h]

/-- An accepted read: the mark of an unwritten read is noted, the value answered, and BUSY recorded. -/
theorem hostRead_accepted {s : State} {off size : Nat} {t : Target} {v : BitVec 64}
    (h : accessTarget s.width off size = some t) (hb : ¬ (s.busy = true ∧ t ≠ .cr)) (hv : s.windowValue t = some v) :
    s.hostRead off size = (s.noteHostRead t).answerRead v := by
  simp only [State.hostRead, h, if_neg hb, hv]

/-- Noting an unwritten read changes its mark alone. -/
theorem noteHostRead_busy (s : State) (t : Target) : (s.noteHostRead t).busy = s.busy := by cases t <;> rfl

theorem noteHostRead_host (s : State) (t : Target) : (s.noteHostRead t).host = s.host := by cases t <;> rfl

/-- What a host read does to the read record: an accepted one records BUSY, a refused one keeps the record and sets the
REFUSED mark. -/
theorem hostRead_busyAtLastRead (s : State) (off size : Nat) :
    (s.hostRead off size).busyAtLastRead = s.busy ∨
      (s.hostRead off size = s.refuse ∧ (s.hostRead off size).busyAtLastRead = s.busyAtLastRead) := by
  unfold State.hostRead
  split
  · exact .inr ⟨rfl, rfl⟩
  · split
    · exact .inr ⟨rfl, rfl⟩
    · split
      · exact .inr ⟨rfl, rfl⟩
      · exact .inl (noteHostRead_busy s _)

theorem hostWrite_refused {s : State} {off size : Nat} {v : BitVec 64} (h : accessTarget s.width off size = none) :
    s.hostWrite off size v = s.refuse := by simp [State.hostWrite, h]

theorem hostWrite_busy {s : State} {off size : Nat} {v : BitVec 64} (h : s.busy = true) :
    s.hostWrite off size v = s.refuse := by
  unfold State.hostWrite
  split
  · rfl
  · simp [h]

end Sys2Proof.Machine
end

