-- ==== Sys2Proof/Tests/Slice0.lean ====
section
/-! SUPPORT. The model's own tests. Expected results come from spec/95_test_vectors.md (the vector's id is in the name or the
comment) or from the rule named; none is the model's own answer. Then the witnesses of the statements' hypotheses. -/

namespace Sys2Proof.Tests

open Sys2Proof Sys2Proof.Machine Sys2Proof.Safety

set_option Elab.async false

/-! ### Well-formedness: an ill-formed term for each check (R96, R97, R100) -/

theorem test_wf_from512_at_512 : (Instr.from512 1 0).wellFormed .w512 = false := by decide

theorem test_wf_from512_at_1024 : (Instr.from512 1 0).wellFormed .w1024 = true := by decide

theorem test_wf_quoRem512_at_512 : (Instr.quoRem512 2 3 0 1).wellFormed .w512 = false := by decide

theorem test_wf_mulx_same : (Instr.mulx 4 4 1 2).wellFormed .w1024 = false := by decide

theorem test_wf_quoRem_same : (Instr.quoRem 2 2 0 1).wellFormed .w1024 = false := by decide

theorem test_wf_divx_same : (Instr.divx 3 3 0 1 2).wellFormed .w1024 = false := by decide

/-! ### Decoding: one word of every row, written out by R91 from its fields -/

/-- E1a: `MUL v2, v0, v1`. -/
theorem test_decode_mul : decode .w1024 0x00100250 = .ok (.mul 2 0 1) := by decide

/-- E1b: `MULX v2, v3, v0, v1`. -/
theorem test_decode_mulx : decode .w1024 0x00103252 = .ok (.mulx 2 3 0 1) := by decide

/-- E2a: `ADD v2, v0, v1`. -/
theorem test_decode_add : decode .w1024 0x00100240 = .ok (.add 2 0 1) := by decide

/-- E2b: `SUB v2, v0, v1`. -/
theorem test_decode_sub : decode .w1024 0x00100242 = .ok (.sub 2 0 1) := by decide

/-- E3: `QUOREM v2, v3, v0, v1`. -/
theorem test_decode_quoRem : decode .w1024 0x00103260 = .ok (.quoRem 2 3 0 1) := by decide

/-- E4a: `CLZ s1, v0`. -/
theorem test_decode_clz : decode .w1024 0x00000181 = .ok (.clz 1 0) := by decide

/-- E4b: `CTZ s1, v0`. -/
theorem test_decode_ctz : decode .w1024 0x00000182 = .ok (.ctz 1 0) := by decide

/-- E4c: `POPCNT s1, v0`. -/
theorem test_decode_popcnt : decode .w1024 0x00000183 = .ok (.popcnt 1 0) := by decide

/-- E4d: `BITLEN s1, v0`. -/
theorem test_decode_bitLen : decode .w1024 0x00000180 = .ok (.bitLen 1 0) := by decide

/-- E5a: `LSH v1, v0, s0`. -/
theorem test_decode_lsh : decode .w1024 0x00000170 = .ok (.lsh 1 0 0) := by decide

/-- E6a: `DIVX v3, v4, v0, v1, v2`. -/
theorem test_decode_divx : decode .w1024 0x02104365 = .ok (.divx 3 4 0 1 2) := by decide

/-- E9a: `NOT v1, v0`. -/
theorem test_decode_not : decode .w1024 0x00000130 = .ok (.not 1 0) := by decide

/-- E9b: `AND v2, v0, v1`. -/
theorem test_decode_and : decode .w1024 0x00100231 = .ok (.and 2 0 1) := by decide

/-- E9c: `OR v2, v0, v1`. -/
theorem test_decode_or : decode .w1024 0x00100232 = .ok (.or 2 0 1) := by decide

/-- E9d: `XOR v2, v0, v0`. -/
theorem test_decode_xor : decode .w1024 0x00000233 = .ok (.xor 2 0 0) := by decide

/-- E10b: `RSH v1, v0, s0`. -/
theorem test_decode_rsh : decode .w1024 0x00000171 = .ok (.rsh 1 0 0) := by decide

/-- E11b: `BIT s1, v0, s0`. -/
theorem test_decode_bit : decode .w1024 0x00000184 = .ok (.bit 1 0 0) := by decide

/-- E11c: `REV v1, v0`. -/
theorem test_decode_rev : decode .w1024 0x00000185 = .ok (.rev 1 0) := by decide

/-- E11d: `REVB v1, v0`. -/
theorem test_decode_revB : decode .w1024 0x00000186 = .ok (.revB 1 0) := by decide

/-- T1: `NOP`. -/
theorem test_decode_nop : decode .w1024 0x00000000 = .ok .nop := by decide

/-- T2: `CLC`. -/
theorem test_decode_clc : decode .w1024 0x00000001 = .ok .clc := by decide

/-- T4: `STC`. -/
theorem test_decode_stc : decode .w1024 0x00000002 = .ok .stc := by decide

/-- T6: `ZERO v5`. -/
theorem test_decode_zero : decode .w1024 0x00000510 = .ok (.zero 5) := by decide

/-- T7: `ONE v0`. -/
theorem test_decode_one : decode .w1024 0x00000011 = .ok (.one 0) := by decide

/-- T8: `MAX v2`. -/
theorem test_decode_max : decode .w1024 0x00000212 = .ok (.max 2) := by decide

/-- T10: `FROM64 v2, s3`. -/
theorem test_decode_from64 : decode .w1024 0x00030213 = .ok (.from64 2 3) := by decide

/-- T12: `FROM128 v1, v0`. -/
theorem test_decode_from128 : decode .w1024 0x00000114 = .ok (.from128 1 0) := by decide

/-- T14: `FROM256 v1, v0`. -/
theorem test_decode_from256 : decode .w1024 0x00000115 = .ok (.from256 1 0) := by decide

/-- T16: `FROM512 v1, v0`. -/
theorem test_decode_from512 : decode .w1024 0x00000116 = .ok (.from512 1 0) := by decide

/-- T18: `ISZERO s0, v0`. -/
theorem test_decode_isZero : decode .w1024 0x00000020 = .ok (.isZero 0 0) := by decide

/-- T20: `EQ s0, v1, v2`. -/
theorem test_decode_eq : decode .w1024 0x00210021 = .ok (.eq 0 1 2) := by decide

/-- T23: `CMP s3, v1, v2`. -/
theorem test_decode_cmp : decode .w1024 0x00210322 = .ok (.cmp 3 1 2) := by decide

/-- T28: `EQ.H s0, v0, v1`. -/
theorem test_decode_eqH : decode .w1024 0x00100023 = .ok (.eqH 0 0 1) := by decide

/-- T30: `CMP.H s1, v0, v1`. -/
theorem test_decode_cmpH : decode .w1024 0x00100124 = .ok (.cmpH 1 0 1) := by decide

/-- T39: `ANDNOT v0, v1, v2`. -/
theorem test_decode_andNot : decode .w1024 0x00210034 = .ok (.andNot 0 1 2) := by decide

/-- T41: `AND.H v0, v1, v2`. -/
theorem test_decode_andH : decode .w1024 0x00210035 = .ok (.andH 0 1 2) := by decide

/-- T42: `OR.H v0, v1, v2`. -/
theorem test_decode_orH : decode .w1024 0x00210036 = .ok (.orH 0 1 2) := by decide

/-- T43: `XOR.H v0, v1, v2`. -/
theorem test_decode_xorH : decode .w1024 0x00210037 = .ok (.xorH 0 1 2) := by decide

/-- T44: `ANDNOT.H v0, v1, v2`. -/
theorem test_decode_andNotH : decode .w1024 0x00210038 = .ok (.andNotH 0 1 2) := by decide

/-- T49: `ADDC v2, v0, v1`. -/
theorem test_decode_addc : decode .w1024 0x00100241 = .ok (.addc 2 0 1) := by decide

/-- T55: `SUBB v2, v0, v1`. -/
theorem test_decode_subb : decode .w1024 0x00100243 = .ok (.subb 2 0 1) := by decide

/-- T59: `ADD.H v2, v0, v1`. -/
theorem test_decode_addH : decode .w1024 0x00100244 = .ok (.addH 2 0 1) := by decide

/-- T61: `SUB.H v2, v0, v1`. -/
theorem test_decode_subH : decode .w1024 0x00100245 = .ok (.subH 2 0 1) := by decide

/-- T67: `MUL.H v2, v0, v1`. -/
theorem test_decode_mulH : decode .w1024 0x00100251 = .ok (.mulH 2 0 1) := by decide

/-- T81: `QUOREM.64 v2, v3, v0, v1`. -/
theorem test_decode_quoRem64 : decode .w1024 0x00103261 = .ok (.quoRem64 2 3 0 1) := by decide

/-- T84: `QUOREM.128 v2, v3, v0, v1`. -/
theorem test_decode_quoRem128 : decode .w1024 0x00103262 = .ok (.quoRem128 2 3 0 1) := by decide

/-- T85: `QUOREM.256 v2, v3, v0, v1`. -/
theorem test_decode_quoRem256 : decode .w1024 0x00103263 = .ok (.quoRem256 2 3 0 1) := by decide

/-- T86: `QUOREM.512 v2, v3, v0, v1`. -/
theorem test_decode_quoRem512 : decode .w1024 0x00103264 = .ok (.quoRem512 2 3 0 1) := by decide

/-! ### Decode vectors of section 3: the illegal ones, by the step of R100 that fails first -/

theorem test_decode_X1 : decode .w512 0x0000000000325140 = .error .unusedField := by decide

theorem test_decode_X2 : decode .w512 0x0000000000214452 = .error .sameDestinations := by decide

theorem test_decode_X3 : decode .w512 0x0000000100320140 = .error .cmdHighBits := by decide

theorem test_decode_X4 : decode .w512 0x0000000010320140 = .error .reservedBits := by decide

theorem test_decode_X6 : decode .w512 0x00000000000000ff = .error .reservedOpcode := by decide

theorem test_decode_X7 : decode .w512 0x0000000000103264 = .error .notAtThisWidth := by decide

theorem test_decode_X9 : decode .w512 0x0000000000000100 = .error .unusedField := by decide

theorem test_decode_X12 : decode .w512 0x0000000000010111 = .error .unusedField := by decide

theorem test_decode_X15 : decode .w512 0x0000000032104365 = .error .reservedBits := by decide

theorem test_decode_X18 : decode .w512 0x0000000000000087 = .error .reservedOpcode := by decide

/-! ### One step on a small state -/

/-- The state of a vector: IDLE, the listed registers written, CF as given. -/
def given (w : Width) (vs : List (Reg × Nat)) (ss : List (Reg × BitVec 64)) (cf : Bool) : State :=
  ss.foldl (fun s p => s.setS p.1 p.2) (vs.foldl (fun s p => s.setV p.1 p.2) ((State.resetAt w).setCF cf))

/-- What a test reads after one step on a command word. -/
def after {α : Type} (s : State) (word : Nat) (f : State → α) : Option α :=
  match step (s.withFetchWord 32 word) with
  | .next t => some (f t)
  | .fault _ | .refused _ => none

/-- T1: `NOP` at W = 512. -/
theorem test_nop_T1 :
    after (given .w512 [] [] true) 0x00000000 (fun t => t.cf) =
      some true := by decide +kernel

/-- T2: `CLC` at W = 512. -/
theorem test_clc_T2 :
    after (given .w512 [] [] true) 0x00000001 (fun t => t.cf) =
      some false := by decide +kernel

/-- T4: `STC` at W = 512. -/
theorem test_stc_T4 :
    after (given .w512 [] [] false) 0x00000002 (fun t => t.cf) =
      some true := by decide +kernel

/-- T6: `ZERO v5` at W = 512. -/
theorem test_zero_T6 :
    after (given .w512 [] [] false) 0x00000510 (fun t => (t.vreg 5, t.cf)) =
      some (0, false) := by decide +kernel

/-- T7: `ONE v0` at W = 512. -/
theorem test_one_T7 :
    after (given .w512 [] [] false) 0x00000011 (fun t => (t.vreg 0, t.cf)) =
      some (1, false) := by decide +kernel

/-- T8: `MAX v2` at W = 512. -/
theorem test_max_T8 :
    after (given .w512 [] [] false) 0x00000212 (fun t => (t.vreg 2, t.cf)) =
      some (2^512 - 1, false) := by decide +kernel

/-- T10: `FROM64 v2, s3` at W = 512. -/
theorem test_from64_T10 :
    after (given .w512 [] [(3, 0xffffffffffffffff)] false) 0x00030213 (fun t => (t.vreg 2, t.cf)) =
      some (0xffffffffffffffff, false) := by decide +kernel

/-- T13: `FROM128 v0, v0` at W = 512. -/
theorem test_from128_T13 :
    after (given .w512 [(0, 2^200 + 2^64 + 5)] [] false) 0x00000014 (fun t => (t.vreg 0, t.cf)) =
      some (2^64 + 5, false) := by decide +kernel

/-- T14: `FROM256 v1, v0` at W = 512. -/
theorem test_from256_T14 :
    after (given .w512 [(0, 2^512 - 1)] [] false) 0x00000115 (fun t => (t.vreg 1, t.cf)) =
      some (2^256 - 1, false) := by decide +kernel

/-- T16: `FROM512 v1, v0` at W = 1024. -/
theorem test_from512_T16 :
    after (given .w1024 [(0, 2^1000 + 7)] [] false) 0x00000116 (fun t => (t.vreg 1, t.cf)) =
      some (7, false) := by decide +kernel

/-- T19: `ISZERO s0, v0` at W = 512. -/
theorem test_isZero_T19 :
    after (given .w512 [(0, 2^511)] [] false) 0x00000020 (fun t => (t.sreg 0, t.cf)) =
      some (0, false) := by decide +kernel

/-- T21: `EQ s0, v1, v2` at W = 512. -/
theorem test_eq_T21 :
    after (given .w512 [(1, 2^256), (2, 2^256 + 1)] [] false) 0x00210021 (fun t => (t.sreg 0, t.cf)) =
      some (0, false) := by decide +kernel

/-- T23: `CMP s3, v1, v2` at W = 512. -/
theorem test_cmp_T23 :
    after (given .w512 [(1, 0), (2, 2^512 - 1)] [] false) 0x00210322 (fun t => (t.sreg 3, t.cf)) =
      some (0xffffffffffffffff, false) := by decide +kernel

/-- T24: `CMP s3, v1, v2` at W = 512. -/
theorem test_cmp_T24 :
    after (given .w512 [(1, 2^512 - 1), (2, 0)] [] false) 0x00210322 (fun t => (t.sreg 3, t.cf)) =
      some (1, false) := by decide +kernel

/-- T28: `EQ.H s0, v0, v1` at W = 512. -/
theorem test_eqH_T28 :
    after (given .w512 [(0, 5), (1, 2^300 + 5)] [] false) 0x00100023 (fun t => (t.sreg 0, t.cf)) =
      some (1, false) := by decide +kernel

/-- T31: `CMP.H s1, v0, v1` at W = 1024. -/
theorem test_cmpH_T31 :
    after (given .w1024 [(0, 3), (1, 2^600 + 4)] [] false) 0x00100124 (fun t => (t.sreg 1, t.cf)) =
      some (0xffffffffffffffff, false) := by decide +kernel

/-- T34: `NOT v1, v0` at W = 1024. -/
theorem test_not_T34 :
    after (given .w1024 [(0, 2^1024 - 1)] [] false) 0x00000130 (fun t => (t.vreg 1, t.cf)) =
      some (0, false) := by decide +kernel

/-- T35: `AND v0, v1, v2` at W = 512. -/
theorem test_and_T35 :
    after (given .w512 [(1, 2^512 - 1), (2, 2^300 + 1)] [] false) 0x00210031 (fun t => (t.vreg 0, t.cf)) =
      some (2^300 + 1, false) := by decide +kernel

/-- T36: `OR v0, v1, v2` at W = 512. -/
theorem test_or_T36 :
    after (given .w512 [(1, 2^400), (2, 0)] [] false) 0x00210032 (fun t => (t.vreg 0, t.cf)) =
      some (2^400, false) := by decide +kernel

/-- T38: `XOR v0, v1, v1` at W = 512. -/
theorem test_xor_T38 :
    after (given .w512 [(1, 2^400 + 9)] [] false) 0x00110033 (fun t => (t.vreg 0, t.cf)) =
      some (0, false) := by decide +kernel

/-- T40: `ANDNOT v0, v2, v1` at W = 512. -/
theorem test_andNot_T40 :
    after (given .w512 [(1, 2^512 - 1), (2, 2^256 - 1)] [] false) 0x00120034 (fun t => (t.vreg 0, t.cf)) =
      some (0, false) := by decide +kernel

/-- T41: `AND.H v0, v1, v2` at W = 512. -/
theorem test_andH_T41 :
    after (given .w512 [(1, 2^512 - 1), (2, 2^512 - 1)] [] false) 0x00210035 (fun t => (t.vreg 0, t.cf)) =
      some (2^256 - 1, false) := by decide +kernel

/-- T42: `OR.H v0, v1, v2` at W = 512. -/
theorem test_orH_T42 :
    after (given .w512 [(1, 2^511), (2, 2^300 + 1)] [] false) 0x00210036 (fun t => (t.vreg 0, t.cf)) =
      some (2^511 + 1, false) := by decide +kernel

/-- T43: `XOR.H v0, v1, v2` at W = 512. -/
theorem test_xorH_T43 :
    after (given .w512 [(1, 2^512 - 1), (2, 2^512 - 1)] [] false) 0x00210037 (fun t => (t.vreg 0, t.cf)) =
      some (2^512 - 2^256, false) := by decide +kernel

/-- T44: `ANDNOT.H v0, v1, v2` at W = 512. -/
theorem test_andNotH_T44 :
    after (given .w512 [(1, 2^512 - 1), (2, 1)] [] false) 0x00210038 (fun t => (t.vreg 0, t.cf)) =
      some (2^512 - 2, false) := by decide +kernel

/-- T46: `ADD v2, v0, v1` at W = 512. -/
theorem test_add_T46 :
    after (given .w512 [(0, 2^512 - 1), (1, 1)] [] true) 0x00100240 (fun t => (t.vreg 2, t.cf)) =
      some (0, true) := by decide +kernel

/-- T49: `ADDC v2, v0, v1` at W = 512. -/
theorem test_addc_T49 :
    after (given .w512 [(0, 2^512 - 1), (1, 2^512 - 1)] [] true) 0x00100241 (fun t => (t.vreg 2, t.cf)) =
      some (2^512 - 1, true) := by decide +kernel

/-- T52: `ADDC v2, v0, v1` at W = 512. -/
theorem test_addc_T52 :
    after (given .w512 [(0, 5), (1, 6)] [] true) 0x00100241 (fun t => (t.vreg 2, t.cf)) =
      some (12, false) := by decide +kernel

/-- T53: `SUB v2, v0, v1` at W = 512. -/
theorem test_sub_T53 :
    after (given .w512 [(0, 0), (1, 1)] [] false) 0x00100242 (fun t => (t.vreg 2, t.cf)) =
      some (2^512 - 1, false) := by decide +kernel

/-- T55: `SUBB v2, v0, v1` at W = 512. -/
theorem test_subb_T55 :
    after (given .w512 [(0, 0), (1, 0)] [] true) 0x00100243 (fun t => (t.vreg 2, t.cf)) =
      some (2^512 - 1, true) := by decide +kernel

/-- T58: `SUBB v2, v0, v1` at W = 512. -/
theorem test_subb_T58 :
    after (given .w512 [(0, 2^256), (1, 1)] [] false) 0x00100243 (fun t => (t.vreg 2, t.cf)) =
      some (2^256 - 1, false) := by decide +kernel

/-- T60: `ADD.H v2, v0, v1` at W = 512. -/
theorem test_addH_T60 :
    after (given .w512 [(0, 2^512 - 1), (1, 1)] [] false) 0x00100244 (fun t => (t.vreg 2, t.cf)) =
      some (0, false) := by decide +kernel

/-- T61: `SUB.H v2, v0, v1` at W = 512. -/
theorem test_subH_T61 :
    after (given .w512 [(0, 2^256), (1, 2^400 + 1)] [] false) 0x00100245 (fun t => (t.vreg 2, t.cf)) =
      some (2^256 - 1, false) := by decide +kernel

/-- T66: `MUL v2, v0, v0` at W = 512. -/
theorem test_mul_T66 :
    after (given .w512 [(0, 2^200 + 1)] [] false) 0x00000250 (fun t => (t.vreg 2, t.cf)) =
      some (2^400 + 2^201 + 1, false) := by decide +kernel

/-- T68: `MUL.H v2, v0, v1` at W = 512. -/
theorem test_mulH_T68 :
    after (given .w512 [(0, 2^300), (1, 2^300 + 3)] [] false) 0x00100251 (fun t => (t.vreg 2, t.cf)) =
      some (2^301 + 2^300, false) := by decide +kernel

/-- T72: `MULX v0, v1, v0, v1` at W = 512. -/
theorem test_mulx_T72 :
    after (given .w512 [(0, 2^512 - 1), (1, 2)] [] false) 0x00101052 (fun t => (t.vreg 0, t.vreg 1, t.cf)) =
      some (2^512 - 2, 1, false) := by decide +kernel

/-- T77: `QUOREM v2, v3, v0, v1` at W = 512. -/
theorem test_quoRem_T77 :
    after (given .w512 [(0, 2^512 - 1), (1, 2^256 + 1)] [] false) 0x00103260 (fun t => (t.vreg 2, t.vreg 3, t.cf)) =
      some (2^256 - 1, 0, false) := by decide +kernel

/-- T79: `QUOREM v2, v3, v0, v1` at W = 512. -/
theorem test_quoRem_T79 :
    after (given .w512 [(0, 2^512 - 1), (1, 0)] [] false) 0x00103260 (fun t => (t.fc, t.fcmd, t.busy, t.vWritten 2 0, t.cf)) =
      some (1, 0x00103260, false, false, false) := by decide +kernel

/-- T80: `QUOREM v0, v1, v0, v1` at W = 512. -/
theorem test_quoRem_T80 :
    after (given .w512 [(0, 100), (1, 7)] [] false) 0x00101060 (fun t => (t.vreg 0, t.vreg 1, t.cf)) =
      some (14, 2, false) := by decide +kernel

/-- T82: `QUOREM.64 v2, v3, v0, v1` at W = 512. -/
theorem test_quoRem64_T82 :
    after (given .w512 [(0, 2^512 - 1), (1, 2^100 + 10)] [] false) 0x00103261 (fun t => (t.vreg 2, t.vreg 3, t.cf)) =
      some (0x19999999999999999999999999999999999999999999999999999999999999999999999999999999999999999999999999999999999999999999999999999999, 5, false) := by decide +kernel

/-- T83: `QUOREM.64 v2, v3, v0, v1` at W = 512. -/
theorem test_quoRem64_T83 :
    after (given .w512 [(0, 2^512 - 1), (1, 2^64)] [] false) 0x00103261 (fun t => (t.fc, t.fcmd, t.busy, t.vWritten 2 0, t.cf)) =
      some (1, 0x00103261, false, false, false) := by decide +kernel

/-- T84: `QUOREM.128 v2, v3, v0, v1` at W = 512. -/
theorem test_quoRem128_T84 :
    after (given .w512 [(0, 2^300 + 7), (1, 2^100)] [] false) 0x00103262 (fun t => (t.vreg 2, t.vreg 3, t.cf)) =
      some (2^200, 7, false) := by decide +kernel

/-- T85: `QUOREM.256 v2, v3, v0, v1` at W = 512. -/
theorem test_quoRem256_T85 :
    after (given .w512 [(0, 2^512 - 1), (1, 2^256 - 1)] [] false) 0x00103263 (fun t => (t.vreg 2, t.vreg 3, t.cf)) =
      some (2^256 + 1, 0, false) := by decide +kernel

/-- T86: `QUOREM.512 v2, v3, v0, v1` at W = 1024. -/
theorem test_quoRem512_T86 :
    after (given .w1024 [(0, 2^1000), (1, 2^500 + 1)] [] false) 0x00103264 (fun t => (t.vreg 2, t.vreg 3, t.cf)) =
      some (2^500 - 1, 1, false) := by decide +kernel

/-- T89: `DIVX v3, v4, v0, v1, v2` at W = 1024. -/
theorem test_divx_T89 :
    after (given .w1024 [(0, 1), (1, 0), (2, 1)] [] false) 0x02104365 (fun t => (t.fc, t.fcmd, t.busy, t.vWritten 3 0, t.cf)) =
      some (2, 0x02104365, false, false, false) := by decide +kernel

/-- T90: `DIVX v3, v4, v0, v1, v2` at W = 512. -/
theorem test_divx_T90 :
    after (given .w512 [(0, 5), (1, 9), (2, 0)] [] false) 0x02104365 (fun t => (t.fc, t.fcmd, t.busy, t.vWritten 3 0, t.cf)) =
      some (1, 0x02104365, false, false, false) := by decide +kernel

/-- T92: `DIVX v3, v4, v0, v1, v2` at W = 512. -/
theorem test_divx_T92 :
    after (given .w512 [(0, 5), (1, 9), (2, 6)] [] false) 0x02104365 (fun t => (t.vreg 3, t.vreg 4, t.cf)) =
      some (0xd5555555555555555555555555555555555555555555555555555555555555555555555555555555555555555555555555555555555555555555555555555556, 5, false) := by decide +kernel

/-- T99: `LSH v1, v0, s2` at W = 512. -/
theorem test_lsh_T99 :
    after (given .w512 [(0, 2^512 - 1)] [(2, 64)] false) 0x00200170 (fun t => (t.vreg 1, t.cf)) =
      some (2^512 - 2^64, false) := by decide +kernel

/-- T103: `LSH v1, v0, s2` at W = 512. -/
theorem test_lsh_T103 :
    after (given .w512 [(0, 2^512 - 1)] [(2, 0x8000000000000000)] false) 0x00200170 (fun t => (t.vreg 1, t.cf)) =
      some (0, false) := by decide +kernel

/-- T106: `RSH v1, v0, s2` at W = 512. -/
theorem test_rsh_T106 :
    after (given .w512 [(0, 2^512 - 1)] [(2, 63)] false) 0x00200171 (fun t => (t.vreg 1, t.cf)) =
      some (2^449 - 1, false) := by decide +kernel

/-- T111: `BITLEN s1, v0` at W = 1024. -/
theorem test_bitLen_T111 :
    after (given .w1024 [(0, 2^1000 + 2^500 + 1)] [] false) 0x00000180 (fun t => (t.sreg 1, t.cf)) =
      some (1001, false) := by decide +kernel

/-- T116: `CLZ s2, v0` at W = 512. -/
theorem test_clz_T116 :
    after (given .w512 [(0, 0)] [] false) 0x00000281 (fun t => (t.sreg 2, t.cf)) =
      some (512, false) := by decide +kernel

/-- T117: `CTZ s3, v0` at W = 512. -/
theorem test_ctz_T117 :
    after (given .w512 [(0, 0)] [] false) 0x00000382 (fun t => (t.sreg 3, t.cf)) =
      some (512, false) := by decide +kernel

/-- T112: `CLZ s2, v0` at W = 1024. -/
theorem test_clz_T112 :
    after (given .w1024 [(0, 2^1000 + 2^500 + 1)] [] false) 0x00000281 (fun t => (t.sreg 2, t.cf)) =
      some (23, false) := by decide +kernel

/-- T114: `POPCNT s4, v0` at W = 1024. -/
theorem test_popcnt_T114 :
    after (given .w1024 [(0, 2^1000 + 2^500 + 1)] [] false) 0x00000483 (fun t => (t.sreg 4, t.cf)) =
      some (3, false) := by decide +kernel

/-- T126: `BIT s5, v0, s6` at W = 1024. -/
theorem test_bit_T126 :
    after (given .w1024 [(0, 2^1000 + 2^500 + 1)] [(6, 501)] false) 0x00600584 (fun t => (t.sreg 5, t.cf)) =
      some (0, false) := by decide +kernel

/-- T129: `BIT s5, v0, s6` at W = 1024. -/
theorem test_bit_T129 :
    after (given .w1024 [(0, 2^1024 - 1)] [(6, 0xffffffffffffffff)] false) 0x00600584 (fun t => (t.sreg 5, t.cf)) =
      some (0, false) := by decide +kernel

/-- T132: `REV v1, v0` at W = 512. -/
theorem test_rev_T132 :
    after (given .w512 [(0, 2^256 - 1)] [] false) 0x00000185 (fun t => (t.vreg 1, t.cf)) =
      some (2^512 - 2^256, false) := by decide +kernel

/-- T136: `REVB v1, v0` at W = 512. -/
theorem test_revB_T136 :
    after (given .w512 [(0, 2^511)] [] false) 0x00000186 (fun t => (t.vreg 1, t.cf)) =
      some (128, false) := by decide +kernel

/-! ### Model-fault vectors of section 3.1: the limbs written are the listed ones, by host writes -/

/-- The state of a U vector: straight after reset at W = 512, the given limbs and S registers written. -/
def written (ls : List (Reg × Nat × Limb)) : State :=
  ls.foldl (fun s p => s.setLimb p.1 p.2.1 p.2.2) (State.resetAt .w512)

/-- Limbs 0..n-1 of V[r] written with the limbs of `x`. -/
def limbs (r : Reg) (n : Nat) (x : Nat) : List (Reg × Nat × Limb) :=
  (List.range n).map (fun j => (r, j, BitVec.ofNat 64 (x / 2 ^ (64 * j))))

/-- How the spec's own model ends one step: a fault, or the value of V[r]. -/
def strictAfter (s : State) (word : Nat) (r : Reg) : Except Fault Nat :=
  match Safety.strictStep (s.withFetchWord 32 word) with
  | .next t => .ok (t.vreg r)
  | .fault f => .error f
  | .refused _ => .ok 0

theorem test_unwritten_U1 : strictAfter (written (limbs 0 8 5)) 0x00100240 2 = .error .unwrittenRead := by
  decide +kernel

theorem test_unwritten_U2 :
    strictAfter (written (limbs 0 8 5 ++ limbs 1 7 9)) 0x00100240 2 = .error .unwrittenRead := by decide +kernel

theorem test_unwritten_U3 : strictAfter (written (limbs 0 8 100 ++ limbs 1 1 7)) 0x00103261 2 = .ok 14 := by
  decide +kernel

theorem test_unwritten_U4 : strictAfter (written (limbs 0 2 (2^64 + 3))) 0x00000114 1 = .ok (2^64 + 3) := by
  decide +kernel

theorem test_unwritten_U5 : strictAfter (written (limbs 0 8 3 ++ limbs 1 4 5)) 0x00100251 2 = .ok 15 := by
  decide +kernel

theorem test_unwritten_U6 : strictAfter (written (limbs 0 8 1)) 0x00000170 1 = .error .unwrittenRead := by
  decide +kernel

/-- U7: an illegal word with unwritten sources is ILLEGAL_COMMAND, not UNWRITTEN_READ (R305). -/
theorem test_unwritten_U7 :
    after (State.resetAt .w512) 0x00325140 (fun t => (t.fc, t.unwrittenMark)) = some (3, false) := by decide +kernel

theorem test_unwritten_U8 : strictAfter (State.resetAt .w512) 0x00000110 1 = .ok 0 := by decide +kernel

/-! ### The host window -/

/-- What a test reads after one step with one pending event. -/
def served {α : Type} (s : State) (e : HostEvent) (f : State → α) : Option α :=
  match step { s with host := [e] } with
  | .next t => some (f t)
  | .fault _ | .refused _ => none

/-- P1 step 1: read ID at W = 512. -/
theorem test_host_id : served (State.resetAt .w512) (.read 0x898 8) State.answers = some [.data 0x200] := by
  decide +kernel

/-- P2 step 1: read ID at W = 1024. -/
theorem test_host_id_1024 : served (State.resetAt .w1024) (.read 0x898 8) State.answers = some [.data 0x400] := by
  decide +kernel

/-- P3 step 10: CR reads 0x24 after QUOTIENT_OVERFLOW. -/
theorem test_host_cr_faulted :
    served { State.resetAt .w512 with run := .faulted .quotientOverflow } (.read 0x888 8) State.answers =
      some [.data 0x24] := by decide +kernel

/-- P3 step 12: a CMD write in FAULTED is discarded (R41). -/
theorem test_host_cmd_faulted :
    served { State.resetAt .w512 with run := .faulted .quotientOverflow } (.write 0x880 8 0x00200540) State.run =
      some (.faulted .quotientOverflow) := by decide +kernel

/-- R41: in IDLE a CMD write puts the value in flight. -/
theorem test_host_cmd_idle :
    served (State.resetAt .w512) (.write 0x880 8 0x00200540) State.busy = some true := rfl

/-- R63: limb 1 of V[15] at 0x788. -/
theorem test_host_limb :
    served (State.resetAt .w512) (.write 0x788 8 7) (fun t => (t.vreg 15, t.vWritten 15 1, t.vWritten 15 0)) =
      some (7 * 2^64, true, false) := by decide +kernel

/-- R34: a CR write sets CF from bit 0 and no other bit. -/
theorem test_host_cr_write :
    served (State.resetAt .w512) (.write 0x888 8 0xFFFFFFFFFFFFFFFF) State.crValue = some 1 := by decide +kernel

/-- R66: 0x40 of a V slot is reserved at W = 512 and limb 8 at W = 1024. -/
theorem test_host_reserved :
    (served (State.resetAt .w512) (.read 0x40 8) State.answers, served (State.resetAt .w1024) (.read 0x40 8) State.answers) =
      (some [.busError], some [.data 0]) := by decide +kernel

/-- R350: while BUSY a read of FCMD is refused, a read of CR answers BUSY = 1. -/
theorem test_host_busy :
    (served { State.resetAt .w512 with run := .busy 0 1 } (.read 0x890 8) State.answers,
      served { State.resetAt .w512 with run := .busy 0 1 } (.read 0x888 8) State.answers) =
      (some [.busError], some [.data 2]) := by decide +kernel

/-- R340: reset leaves FAULTED and clears FCMD. -/
theorem test_host_reset :
    served { State.resetAt .w512 with run := .faulted .divideByZero, fcmd := 5, cf := true } .reset
      (fun t => (t.run, t.fcmd, t.cf)) = some (.idle, 0, false) := by decide +kernel

/-- R62: byte 1 of V[2] = 0x0102 is at 0x101. -/
theorem test_window_byte : (given .w512 [(2, 0x0102)] [] false).windowByte 0x101 = some 1 := by decide +kernel

/-! ### The assembler -/

/-- R103's example `DIVX v3, v4, v0, v1, v2`. -/
theorem test_asm_divx :
    assembleLine ['D', 'I', 'V', 'X', ' ', 'v', '3', ',', ' ', 'v', '4', ',', ' ', 'v', '0', ',', ' ', 'v', '1', ',', ' ', 'v', '2'] =
      .ok (.divx 3 4 0 1 2) := by decide +kernel

/-- R103: `ADD s1, v2, v3` has the wrong class; the refusal names line 2 and `s1` (R311). -/
theorem test_asm_wrong_class :
    assembleText 1 [['N', 'O', 'P'], ['A', 'D', 'D', ' ', 's', '1', ',', 'v', '2', ',', 'v', '3']] =
      .error (2, .wrongClass ⟨.s, 1⟩) := by decide +kernel

/-- R311: a mnemonic not in R97 is refused by its name and its line. -/
theorem test_asm_unknown_mnemonic :
    assembleText 7 [['N', 'O', 'P'], ['M', 'U', 'L', 'Q', ' ', 'v', '1']] =
      .error (8, .unknownMnemonic ['M', 'U', 'L', 'Q']) := by decide +kernel

/-- R103: operands are separated by commas. -/
theorem test_asm_commas :
    assembleLine ['A', 'D', 'D', ' ', 'v', '1', ' ', 'v', '2', ' ', 'v', '3'] = .error (.badRegister ['v', '1', ' ', 'v', '2', ' ', 'v', '3']) :=
  by decide +kernel

/-- R104: `MOV v3, v1` is `OR v3, v1, v1` (T37: 0x00110332). -/
theorem test_asm_mov :
    (assembleLine ['M', 'O', 'V', ' ', 'v', '3', ',', 'v', '1']).map encode = .ok 0x00110332 := by decide +kernel

/-- The host's two questions, on one word: the decoder reads it, and step runs it from reset (T8). -/
theorem test_table_word : decodeTableWord 32 0x00000212 = some (.max 2) := by decide

theorem test_first_step :
    after State.reset 0x00000212 (fun t => (t.vreg 2, t.run)) = some (2^1024 - 1, .idle) := by decide +kernel

/-! ### Witnesses: states and operands that meet each statement's hypotheses, clause by clause -/

theorem hostMoves_idle {s : State} (h : s.busy = false) : HostMoves s := by
  intro c hc; simp [State.busy, hc] at h

theorem witness_ResetInputInEveryRunState :
    HostMoves { State.reset with run := .busy 5 1, host := [.reset] } := by intro c hc; cases hc

theorem witness_ControlRegisterAccess :
    (HostMoves { State.reset with run := .busy 5 1, host := [.read 0x888 8] }) ∧
    State.busy { State.reset with run := .faulted .divideByZero, host := [.write 0x888 8 1] } = false :=
  ⟨(by intro c hc; cases hc), rfl⟩

theorem witness_ReadOnlyRegisters :
    State.busy { State.reset with run := .faulted .divideByZero, fcmd := 5, host := [.read 0x890 8] } = false ∧
    State.busy { State.reset with host := [.read 0x898 8] } = false ∧ (State.resetAt .w512).width = .w512 ∧
    State.reset.width = .w1024 ∧ step State.reset = .next State.reset := ⟨rfl, rfl, rfl, rfl, rfl⟩

theorem witness_LimbWindowAccess :
    15 < State.reset.width.limbs ∧ 7 < (State.resetAt .w512).width.limbs ∧
    State.busy { State.reset with host := [.write (0x80 * 15 + 8 * 15) 8 1] } = false ∧
    State.vWritten { State.reset with host := [.read (0x80 * 15 + 8 * 15) 8] } 15 15 = false := by decide +kernel

theorem witness_SRegisterWindowAccess :
    State.busy { State.reset with host := [.write (0x800 + 8 * 15) 8 1] } = false ∧
    State.sWritten { State.reset with host := [.read (0x800 + 8 * 15) 8] } 15 = false := by decide +kernel

theorem witness_WindowIsLittleEndian : 127 < State.reset.bits / 8 ∧ 63 < (State.resetAt .w512).bits / 8 := by decide

theorem witness_RefusedAccesses :
    IsRefused State.reset (.read 0x888 4) ∧ IsRefused State.reset (.write 0x804 8 1) ∧
    IsRefused State.reset (.read 0x8A0 8) ∧ IsRefused (State.resetAt .w512) (.write 0x40 8 1) ∧
    IsRefused State.reset (.read 0x880 8) ∧ IsRefused State.reset (.write 0x890 8 1) ∧
    IsRefused State.reset (.write 0x898 8 1) ∧
    IsRefused { State.reset with run := .busy 0 1 } (.write 0x880 8 1) := by
  refine ⟨⟨_, _, .inl rfl, .inl (by decide)⟩, ⟨_, _, .inr ⟨_, rfl⟩, .inr (.inl (by decide))⟩,
    ⟨_, _, .inl rfl, .inr (.inr (.inl (by decide)))⟩,
    ⟨_, _, .inr ⟨_, rfl⟩, .inr (.inr (.inr (.inl ⟨rfl, by decide, by decide⟩)))⟩,
    ⟨_, _, .inl rfl, .inr (.inr (.inr (.inr (.inl rfl))))⟩,
    ⟨_, _, .inr ⟨_, rfl⟩, .inr (.inr (.inr (.inr (.inr (.inl ⟨_, .inl rfl⟩)))))⟩,
    ⟨_, _, .inr ⟨_, rfl⟩, .inr (.inr (.inr (.inr (.inr (.inl ⟨_, .inr rfl⟩)))))⟩,
    ⟨_, _, .inr ⟨_, rfl⟩, .inr (.inr (.inr (.inr (.inr (.inr ⟨rfl, by decide⟩)))))⟩⟩

/-- An offset of 0x1000, outside the window, and one of 0x8A0, the first reserved one after the registers. -/
theorem witness_RefusedAccesses_outside :
    IsRefused State.reset (.read 0x1000 8) ∧ IsRefused State.reset (.write 0x8A0 8 1) :=
  ⟨⟨_, _, .inl rfl, .inr (.inr (.inl (by decide)))⟩, ⟨_, _, .inr ⟨_, rfl⟩, .inr (.inr (.inl (by decide)))⟩⟩

theorem witness_RefusedAccesses_accepted : ¬ IsRefused State.reset (.read 0x898 8) := by
  rintro ⟨off, size, he, h⟩
  rcases he with he | ⟨v, he⟩
  · cases he
    simp [State.busy, State.reset, State.resetAt] at h
  · cases he

theorem witness_ReadsChangeNothing :
    HostMoves { State.reset with host := [.read 0x898 8, .read 0x898 8] } := hostMoves_idle rfl

theorem witness_CmdWrite :
    State.run { State.reset with host := [.write 0x880 8 1] } = .idle ∧
    State.run { State.reset with run := .faulted .illegalCommand, host := [.write 0x880 8 1] } =
      .faulted .illegalCommand := ⟨rfl, rfl⟩

theorem witness_OnlyResetLeavesFaulted :
    (State.run { State.reset with run := .faulted .quotientOverflow, host := [.write (0x80 * 15 + 8 * 15) 8 7] } =
      .faulted .quotientOverflow ∧ 15 < State.reset.width.limbs) ∧
    State.run { State.reset with run := .faulted .quotientOverflow, host := [.write (0x800 + 8 * 15) 8 7] } =
      .faulted .quotientOverflow ∧
    State.run { State.reset with run := .faulted .quotientOverflow, host := [.write 0x888 8 1] } =
      .faulted .quotientOverflow ∧
    State.run { State.reset with run := .faulted .quotientOverflow, host := [.reset] } = .faulted .quotientOverflow := by
  decide +kernel

theorem witness_StepRunsTheDecodedCommand :
    State.run { State.reset with run := .busy 0x00320140 3, host := [] } = .busy 0x00320140 3 ∧
    decode State.reset.width 0x00320140 = .ok (.add 1 2 3) ∧
    decode State.reset.width (tableCmdValue 32 0x00320140) = .ok (.add 1 2 3) := ⟨rfl, by decide, by decide⟩

theorem witness_IllegalCommandInFlight :
    State.run { State.resetAt .w512 with run := .busy 0x00214452 0 } = .busy 0x00214452 0 ∧
    illegalBecause (State.width { State.resetAt .w512 with run := .busy 0x00214452 0 }) 0x00214452 .sameDestinations :=
  ⟨rfl, .mulx, by decide, by decide, by decide⟩

theorem witness_IllegalCommand :
    illegalBecause .w512 0x0000000100320140 .cmdHighBits ∧ illegalBecause .w512 0x10320140 .reservedBits ∧
    illegalBecause .w512 0x87 .reservedOpcode ∧ illegalBecause .w512 0x00103264 .notAtThisWidth ∧
    illegalBecause .w512 0x00325140 .unusedField ∧ illegalBecause .w512 0x00214452 .sameDestinations := by
  refine ⟨by simp [illegalBecause], by simp [illegalBecause], ?_, ⟨.quoRem512, by decide, by decide⟩,
    ⟨.add, by decide, by decide⟩, ⟨.mulx, by decide, by decide, by decide⟩⟩
  intro op
  cases op <;> decide

theorem witness_DecodeOfEncode :
    (Instr.from512 15 15).wellFormed .w1024 = true ∧ (Instr.divx 15 14 15 15 15).wellFormed .w512 = true := by decide

theorem witness_EncodeOfDecode : decode .w512 0x02104365 = .ok (.divx 3 4 0 1 2) := by decide

/-- Operands that match, and operands that do not: of a command, and of each pseudo-instruction. -/
theorem witness_AssemblerTakesMatchingOperandsOnly :
    [AsmReg.mk .v 1, ⟨.v, 2⟩].map AsmReg.cls = Mnemonic.classes .mov ∧
    [AsmReg.mk .s 1, ⟨.v, 2⟩, ⟨.v, 3⟩].map AsmReg.cls ≠ Mnemonic.classes (.core .add) ∧
    [AsmReg.mk .v 1].map AsmReg.cls ≠ Mnemonic.classes .mov ∧ [AsmReg.mk .s 1].map AsmReg.cls ≠ Mnemonic.classes .clr ∧
    [AsmReg.mk .v 1, ⟨.v, 2⟩].map AsmReg.cls ≠ Mnemonic.classes .tstz := by decide

/-- A wrong number, `ADD v1, s2, v3` with its second operand wrong, an unknown mnemonic, `ADD v1, x2` with its second operand
no register, and a text whose second line is refused. -/
theorem witness_AssemblerRefusesByNameAndLine :
    [AsmReg.mk .v 1].length ≠ (Mnemonic.classes .mov).length ∧
    (([AsmReg.mk .v 1] ++ AsmReg.mk .s 2 :: [AsmReg.mk .v 3]).length = (Mnemonic.classes (.core .add)).length ∧
      [AsmReg.mk .v 1].map AsmReg.cls = (Mnemonic.classes (.core .add)).take [AsmReg.mk .v 1].length ∧
      (Mnemonic.classes (.core .add))[[AsmReg.mk .v 1].length]? ≠ some (AsmReg.mk .s 2).cls) ∧
    parseMnemonic (mnemonicText ['A', 'D', 'X', ' ', 'v', '1']) = none ∧
    (parseMnemonic (mnemonicText ['A', 'D', 'D', ' ', 'v', '1', ',', 'x', '2']) = some (.core .add) ∧
      operandTexts ((trimBlanks ['A', 'D', 'D', ' ', 'v', '1', ',', 'x', '2']).dropWhile (· != ' ')) =
        [['v', '1']] ++ ['x', '2'] :: [] ∧ parseReg ['v', '1'] ≠ none ∧ parseReg ['x', '2'] = none) ∧
    assembleLine ['N', 'O', 'P'] = .ok .nop ∧ assembleLine ['A', 'D', 'X'] = .error (.unknownMnemonic ['A', 'D', 'X']) := by
  decide +kernel

/-- WideningConstructors and QuotientAndRemainder at each width; MULX with rd other than re, and with rd = re. -/
theorem witness_WidthsAndDestinations :
    State.reset.width = .w1024 ∧ (State.resetAt .w512).width = .w512 ∧ (15 : Reg) ≠ 14 ∧ (15 : Reg) = 15 := by decide

/-- ReservedOpcodesAreIllegal: 0x87 is no OP of the map. -/
theorem witness_ReservedOpcode : ∀ op : Opcode, op.byte ≠ (0x87 : BitVec 64).toNat % 2 ^ 8 := by
  intro op; cases op <;> decide

/-- A divisor that is 0 and one that is not, for each form's own reading of V[rb], at W = 1024. -/
theorem witness_QuotientAndRemainder :
    (2 : Reg) ≠ 3 ∧ State.reset.width = .w1024 ∧ (given .w1024 [(1, 2^1023)] [] false).vreg 1 ≠ 0 ∧
    (given .w1024 [(1, 0)] [] false).vreg 1 = 0 ∧
    (∀ k ∈ [64, 128, 256, 512], (given .w1024 [(1, 2^512)] [] false).vreg 1 % 2 ^ k = 0) ∧
    (∀ k ∈ [64, 128, 256, 512], (given .w1024 [(1, 2^512 + 1)] [] false).vreg 1 % 2 ^ k ≠ 0) := by decide +kernel

theorem witness_WideningDivision :
    (given .w512 [(0, 5), (2, 0)] [] false).vreg 2 = 0 ∧
    (0 < (given .w512 [(0, 5), (2, 5)] [] false).vreg 2 ∧
      (given .w512 [(0, 5), (2, 5)] [] false).vreg 2 ≤ (given .w512 [(0, 5), (2, 5)] [] false).vreg 0) ∧
    (given .w512 [(0, 5), (2, 6)] [] false).vreg 0 < (given .w512 [(0, 5), (2, 6)] [] false).vreg 2 := by decide +kernel

theorem witness_IllFormedCommand :
    (Instr.mulx 4 4 1 2).wellFormed State.reset.width = false ∧
    (Instr.from512 1 0).wellFormed (State.resetAt .w512).width = false := by decide

theorem witness_OnlyFourCommandsWriteCarry :
    Instr.nop ≠ .clc ∧ Instr.nop ≠ .stc ∧ (∀ rd ra rb, Instr.nop ≠ .addc rd ra rb ∧ Instr.nop ≠ .subb rd ra rb) ∧
    exec .nop State.reset = .next State.reset :=
  ⟨by decide, by decide, fun _ _ _ => ⟨(fun h => nomatch h), (fun h => nomatch h)⟩, rfl⟩

theorem witness_EveryStepKeepsTheFaultRecord :
    FaultRecord { State.reset with run := .busy 3 0 } ∧
    step { State.reset with run := .busy 3 0 } = .next (State.raise { State.reset with run := .busy 3 0 } .illegalCommand) :=
  ⟨rfl, rfl⟩

/-- Two states that agree on the low half of V[2] only, and a command that reads no more of it. -/
theorem witness_OutcomeDependsOnSourcesOnly :
    ((given .w512 [(2, 7)] [] false).width = (given .w512 [(2, 2^256 + 7)] [] false).width ∧
      (given .w512 [(2, 7)] [] false).run = (given .w512 [(2, 2^256 + 7)] [] false).run ∧
      (given .w512 [(2, 7)] [] false).fcmd = (given .w512 [(2, 2^256 + 7)] [] false).fcmd ∧
      (given .w512 [(2, 7)] [] false).cf = (given .w512 [(2, 2^256 + 7)] [] false).cf) ∧
    (∀ src ∈ sourcesOf (.addH 0 1 2), AgreeOn (given .w512 [(2, 7)] [] false) (given .w512 [(2, 2^256 + 7)] [] false) src) ∧
    (∃ t, exec (.addH 0 1 2) (given .w512 [(2, 7)] [] false) = .next t) ∧
    (∃ t, exec (.addH 0 1 2) (given .w512 [(2, 2^256 + 7)] [] false) = .next t) ∧
    (given .w512 [(2, 7)] [] false).vreg 2 ≠ (given .w512 [(2, 2^256 + 7)] [] false).vreg 2 := by
  refine ⟨by decide +kernel, ?_, ⟨_, rfl⟩, ⟨_, rfl⟩, by decide +kernel⟩
  intro src h
  simp only [sourcesOf, List.mem_cons, List.not_mem_nil, or_false] at h
  rcases h with rfl | rfl
  · show trunc _ _ = trunc _ _
    decide +kernel
  · show trunc _ _ = trunc _ _
    decide +kernel

/-- R356: a CR read that answers BUSY = 1 leaves a record that the premises of a claim see; a read after it clears it. -/
theorem test_busy_at_last_read :
    (served { State.resetAt .w512 with run := .busy 0 1 } (.read 0x888 8) State.busyAtLastRead,
      served { State.resetAt .w512 with busyAtLastRead := true } (.read 0x888 8) State.busyAtLastRead) =
      (some true, some false) := by decide +kernel

/-- EveryStepRecordsBusyAtTheLastRead: an accepted read while BUSY, a step with no read, a refused read, and the one step after
which the premises hold again. -/
theorem witness_EveryStepRecordsBusyAtTheLastRead :
    (HostMoves { State.reset with run := .busy 0 1, host := [.read 0x888 8] } ∧
      ¬ IsRefused { State.reset with run := .busy 0 1, host := [.read 0x888 8] } (.read 0x888 8)) ∧
    State.host { State.reset with host := [.write 0x880 8 1] } = [.write 0x880 8 1] ∧
    IsRefused State.reset (.read 0x880 8) ∧
    (State.busyAtLastRead { State.reset with busyAtLastRead := true, host := [.read 0x888 8] } = true ∧
      (∃ t, step { State.reset with busyAtLastRead := true, host := [.read 0x888 8] } = .next t ∧ ClaimPremises t)) := by
  refine ⟨⟨(by intro c hc; cases hc), ?_⟩, rfl, ⟨_, _, .inl rfl, .inr (.inr (.inr (.inr (.inl rfl))))⟩, rfl, _, rfl, ?_⟩
  · rintro ⟨off, size, he | ⟨v, he⟩, h⟩ <;> cases he
    simp at h
  · exact ⟨rfl, rfl, rfl, rfl, rfl⟩

/-- The core moves with polls still drawn when the host has nothing pending. -/
theorem witness_UnwrittenReadStops_idleHost :
    State.run { State.reset with run := .busy 0x00320140 3 } = .busy 0x00320140 3 ∧
    State.host { State.reset with run := .busy 0x00320140 3 } = [] := by decide +kernel

theorem witness_UnwrittenReadStopsTheStrictRun :
    (State.run { State.reset with run := .busy 0x00320140 0 } = .busy 0x00320140 0 ∧
      State.refusedMark { State.reset with run := .busy 0x00320140 0 } = false ∧
      State.unwrittenMark { State.reset with run := .busy 0x00320140 0 } = false) ∧
    decode (State.width { State.reset with run := .busy 0x00320140 0 }) 0x00320140 = .ok (.add 1 2 3) ∧
    ¬ ReadsWritten (.add 1 2 3) { State.reset with run := .busy 0x00320140 0 } ∧
    ReadsWritten (.add 1 2 3) { given .w1024 [(2, 0), (3, 0)] [] false with run := .busy 0x00320140 0 } ∧
    decode State.reset.width 0x00325140 = .error .unusedField := by
  refine ⟨by decide +kernel, by decide +kernel, ?_, ?_, by decide⟩
  · unfold ReadsWritten; decide +kernel
  · unfold ReadsWritten; decide +kernel

/-- CarryChainAcrossRegisters and MultiplyThenDivideRoundTrip: registers that differ as they ask, a factor that is not 0. -/
theorem witness_RegisterChains :
    (4 : Reg) ≠ 5 ∧ (4 : Reg) ≠ 1 ∧ (4 : Reg) ≠ 3 ∧ (given .w512 [(1, 1)] [] false).vreg 1 ≠ 0 := by decide +kernel

theorem witness_ShiftRoundTrips : ((given .w512 [] [(0, 511)] false).sreg 0).toNat < (State.resetAt .w512).bits := by
  decide +kernel

/-- The six statements about the source's algorithms: operands within the bounds each asks for. -/
theorem witness_Algorithms :
    2^64 - 1 < 2 ^ (64 * 2 ^ 0) ∧ 0 < 4 ∧ 3 < 2 ^ (2 * 4) ∧ 3 < 2 ^ 4 ∧ 2 ≤ 2 ∧ 200 < 255 ∧ 255 < 2 ^ (64 * 1) := by decide

end Sys2Proof.Tests
end

section
/-! SUPPORT. O46 and O47. Every command ends in one of five ways, over values computed from its source operands and CF alone: this is
said once, for two states that agree on those. That outcomes depend on the sources only, and that the core's step keeps the
run's own fields, both follow from it. -/

namespace Sys2Proof.Machine

open Sys2Proof.Safety

/-! ### How a command ends -/

/-- How a command ends: in a fault, with no register written, or with its destinations written. -/
inductive Ending where
  | fault (code : FaultCode)
  | done
  | toV (rd : Reg) (x : Nat)
  | toVV (rd re : Reg) (x y : Nat)
  | toS (rd : Reg) (x : BitVec 64)

/-- The state after an ending, by the operations the meanings themselves end with. A command that completes leaves `b` in CF. -/
def Ending.after (s : State) (b : Bool) : Ending → State
  | .fault code => s.raise code
  | .done => (s.setCF b).complete
  | .toV rd x => ((s.setCF b).setV rd x).complete
  | .toVV rd re x y => (((s.setCF b).setV rd x).setV re y).complete
  | .toS rd x => ((s.setCF b).setS rd x).complete

/-- The ending, unless it is a fault, writes exactly these V and S registers; two V destinations differ (R96). -/
def Ending.Writes (vs ss : List Reg) : Ending → Prop
  | .fault _ => True
  | .done => vs = [] ∧ ss = []
  | .toV rd _ => vs = [rd] ∧ ss = []
  | .toVV rd re _ _ => rd ≠ re ∧ vs = [rd, re] ∧ ss = []
  | .toS rd _ => vs = [] ∧ ss = [rd]

/-- An ending faults, or completes and writes its destinations only (R41, R306). -/
theorem Ending.after_faults_or_completes {e : Ending} {vs ss : List Reg} (he : e.Writes vs ss) (s : State) (b : Bool) :
    (∃ code, Faults code s (e.after s b)) ∨ Completes vs ss s (e.after s b) := by
  cases e with
  | fault code =>
    obtain ⟨_, ⟨⟩, h⟩ := takeFault_faults s code
    exact .inl ⟨code, h⟩
  | done =>
    obtain ⟨rfl, rfl⟩ := he
    obtain ⟨_, ⟨⟩, h, -⟩ := retire_completes (s.setCF b)
    exact .inr (Completes.of_setCF h)
  | toV rd x =>
    obtain ⟨rfl, rfl⟩ := he
    obtain ⟨_, ⟨⟩, h, -⟩ := retireV_completes (s.setCF b) rd x
    exact .inr (Completes.of_setCF h)
  | toVV rd re x y =>
    obtain ⟨hne, rfl, rfl⟩ := he
    obtain ⟨_, ⟨⟩, h, -⟩ := retireVV_completes (s.setCF b) hne x y
    exact .inr (Completes.of_setCF h)
  | toS rd x =>
    obtain ⟨rfl, rfl⟩ := he
    obtain ⟨_, ⟨⟩, h, -⟩ := retireS_completes (s.setCF b) rd x
    exact .inr (Completes.of_setCF h)

/-! ### Two states that agree -/

/-- The states agree on all that a command depends on beside its source operands. -/
structure SameControl (s s' : State) : Prop where
  width : s.width = s'.width
  run : s.run = s'.run
  fcmd : s.fcmd = s'.fcmd
  cf : s.cf = s'.cf

theorem SameControl.refl (s : State) : SameControl s s := ⟨rfl, rfl, rfl, rfl⟩

theorem SameControl.bits {s s' : State} (hs : SameControl s s') : s.bits = s'.bits := congrArg Width.bits hs.width

theorem SameControl.cmdInFlight {s s' : State} (hs : SameControl s s') : s.cmdInFlight = s'.cmdInFlight := by
  simp only [State.cmdInFlight, hs.run, hs.fcmd]

/-- The same run state, FCMD and CF and, when the command completed, the same values in its destinations. -/
def SameResult (vs ss : List Reg) (t t' : State) : Prop :=
  t.run = t'.run ∧ t.fcmd = t'.fcmd ∧ t.cf = t'.cf ∧
    (t.run = .idle → (∀ r ∈ vs, t.vreg r = t'.vreg r) ∧ ∀ r ∈ ss, t.sreg r = t'.sreg r)

/-- One ending gives one result in two states that agree on what it does not write. -/
theorem Ending.after_sameResult {e : Ending} {vs ss : List Reg} (he : e.Writes vs ss) {s s' : State}
    (hs : SameControl s s') (b : Bool) : SameResult vs ss (e.after s b) (e.after s' b) := by
  cases e with
  | fault code => exact ⟨rfl, hs.cmdInFlight, hs.cf, nofun⟩
  | done =>
    obtain ⟨rfl, rfl⟩ := he
    exact ⟨rfl, hs.fcmd, rfl, fun _ => by simp⟩
  | toV rd x =>
    obtain ⟨rfl, rfl⟩ := he
    exact ⟨rfl, hs.fcmd, rfl, fun _ => by simp [Ending.after, State.vreg_setV, State.bits, hs.width]⟩
  | toVV rd re x y =>
    obtain ⟨-, rfl, rfl⟩ := he
    exact ⟨rfl, hs.fcmd, rfl, fun _ => by simp [Ending.after, State.vreg_setV, State.bits, hs.width]⟩
  | toS rd x =>
    obtain ⟨rfl, rfl⟩ := he
    exact ⟨rfl, hs.fcmd, rfl, fun _ => by simp [Ending.after, State.sreg_setS]⟩

/-! ### The same ending in both states -/

/-- The two outcomes are one ending over the same values, with the same CF after it, taken in `s` and in `s'`. -/
def SameEnding (vs ss : List Reg) (s s' : State) (o o' : Host.Outcome State Fault Refusal) : Prop :=
  ∃ (e : Ending) (b : Bool), e.Writes vs ss ∧ o = .next (e.after s b) ∧ o' = .next (e.after s' b)

section
variable {s s' : State} {rd re : Reg}

theorem sameEnding_retire_setCF (b : Bool) :
    SameEnding [] [] s s' (s.setCF b).retire (s'.setCF b).retire :=
  ⟨.done, b, ⟨rfl, rfl⟩, rfl, rfl⟩

theorem sameEnding_retire (hs : SameControl s s') : SameEnding [] [] s s' s.retire s'.retire :=
  ⟨.done, s.cf, ⟨rfl, rfl⟩, rfl, by rw [hs.cf]; rfl⟩

theorem sameEnding_retireV_setCF {b b' : Bool} {x x' : Nat} (hb : b = b') (hx : x = x') :
    SameEnding [rd] [] s s' ((s.setCF b).retireV rd x) ((s'.setCF b').retireV rd x') :=
  ⟨.toV rd x, b, ⟨rfl, rfl⟩, rfl, by rw [hb, hx]; rfl⟩

theorem sameEnding_retireV (hs : SameControl s s') {x x' : Nat} (hx : x = x') :
    SameEnding [rd] [] s s' (s.retireV rd x) (s'.retireV rd x') :=
  sameEnding_retireV_setCF hs.cf hx

theorem sameEnding_retireVV (hs : SameControl s s') (hne : rd ≠ re) {x x' y y' : Nat} (hx : x = x') (hy : y = y') :
    SameEnding [rd, re] [] s s' (s.retireVV rd re x y) (s'.retireVV rd re x' y') :=
  ⟨.toVV rd re x y, s.cf, ⟨hne, rfl, rfl⟩, rfl, by rw [hs.cf, hx, hy]; rfl⟩

theorem sameEnding_retireS (hs : SameControl s s') {x x' : BitVec 64} (hx : x = x') :
    SameEnding [] [rd] s s' (s.retireS rd x) (s'.retireS rd x') :=
  ⟨.toS rd x, s.cf, ⟨rfl, rfl⟩, rfl, by rw [hs.cf, hx]; rfl⟩

theorem sameEnding_takeFault (vs ss : List Reg) (code : FaultCode) :
    SameEnding vs ss s s' (s.takeFault code) (s'.takeFault code) :=
  ⟨.fault code, s.cf, trivial, rfl, rfl⟩

/-- QUOREM and its narrowing forms, on equal dividends and equal divisors. -/
theorem sameEnding_quoRemBy (hs : SameControl s s') {u u' v v' : Nat} (hu : u = u') (hv : v = v') :
    SameEnding [rd, re] [] s s' (s.quoRemBy rd re u v) (s'.quoRemBy rd re u' v') := by
  subst hu hv
  unfold State.quoRemBy
  split
  · exact sameEnding_takeFault ..
  · split
    · exact sameEnding_takeFault ..
    · exact sameEnding_retireVV hs ‹_› rfl rfl

end

/-! ### What agreement on a source operand gives -/

theorem full_eq_of_agreeOn {s s' : State} {r : Reg} (hs : SameControl s s') (h : AgreeOn s s' (.v r .full)) :
    s.full r = s'.full r := by
  have h' : s.vreg r % 2 ^ s.bits = s'.vreg r % 2 ^ s.bits := h
  rwa [Nat.mod_eq_of_lt (s.vreg_lt r), hs.bits, Nat.mod_eq_of_lt (s'.vreg_lt r)] at h'

theorem halfOperand_eq_of_agreeOn {s s' : State} {r : Reg} (hs : SameControl s s') (h : AgreeOn s s' (.v r .half)) :
    s.halfOperand r = s'.halfOperand r := by
  have half_limbs (w : Width) : 64 * Extent.half.count w = w.half := by cases w <;> rfl
  rw [AgreeOn, half_limbs] at h
  rw [State.halfOperand, State.halfOperand, State.half, State.half, ← hs.width, h]

theorem low_eq_of_agreeOn {s s' : State} {r : Reg} {k : Nat} (h : AgreeOn s s' (.v r (.limbs k))) :
    s.low (64 * k) r = s'.low (64 * k) r := h

theorem sreg_eq_of_agreeOn {s s' : State} {r : Reg} (h : AgreeOn s s' (.s r)) : s.sreg r = s'.sreg r := h

theorem agreeOn_refl (s : State) (src : Source) : AgreeOn s s src := by cases src <;> rfl

/-! ### Every command -/

/-- A command takes the same ending in two states that agree on its source operands (R15, R94). -/
theorem exec_sameEnding {s s' : State} (hs : SameControl s s') (i : Instr)
    (h : ∀ src ∈ sourcesOf i, AgreeOn s s' src) :
    SameEnding (vDestinations i) (sDestinations i) s s' (exec i s) (exec i s') := by
  have full {r : Reg} (hr : .v r .full ∈ sourcesOf i) := full_eq_of_agreeOn hs (h _ hr)
  have half {r : Reg} (hr : .v r .half ∈ sourcesOf i) := halfOperand_eq_of_agreeOn hs (h _ hr)
  have low {r : Reg} {k : Nat} (hr : .v r (.limbs k) ∈ sourcesOf i) := low_eq_of_agreeOn (h _ hr)
  have sreg {r : Reg} (hr : .s r ∈ sourcesOf i) := sreg_eq_of_agreeOn (h _ hr)
  cases i
  case nop => exact sameEnding_retire hs
  case clc | stc => exact sameEnding_retire_setCF _
  case zero | one => exact sameEnding_retireV hs rfl
  case max => exact sameEnding_retireV hs (congrArg maxOf hs.bits)
  case from64 rd ra => exact sameEnding_retireV hs (congrArg BitVec.toNat (sreg (.head _)))
  case from128 rd ra | from256 rd ra => exact sameEnding_retireV hs (low (.head _))
  case from512 rd ra =>
    simp only [exec, execFrom512, ← hs.width]
    split
    · exact sameEnding_retireV hs (low (k := 8) (.head _))
    · exact sameEnding_takeFault ..
  case not rd ra | rev rd ra | revB rd ra =>
    have ha := full (.head _)
    exact sameEnding_retireV hs (by rw [hs.bits, ha])
  case isZero rd ra | bitLen rd ra | clz rd ra | ctz rd ra | popcnt rd ra =>
    have ha := full (.head _)
    exact sameEnding_retireS hs (by simp only [hs.bits, ha])
  case and rd ra rb | or rd ra rb | xor rd ra rb | andNot rd ra rb | add rd ra rb | sub rd ra rb | mul rd ra rb =>
    have ha := full (.head _)
    have hb := full (.tail _ (.head _))
    exact sameEnding_retireV hs (by simp only [hs.bits, ha, hb])
  case andH rd ra rb | orH rd ra rb | xorH rd ra rb | andNotH rd ra rb | addH rd ra rb | subH rd ra rb | mulH rd ra rb =>
    have ha := full (.head _)
    have hb := half (.tail _ (.head _))
    exact sameEnding_retireV hs (by simp only [hs.bits, ha, hb])
  case eq rd ra rb | cmp rd ra rb =>
    have ha := full (.head _)
    have hb := full (.tail _ (.head _))
    exact sameEnding_retireS hs (by rw [ha, hb])
  case eqH rd ra rb | cmpH rd ra rb =>
    have ha := full (.head _)
    have hb := half (.tail _ (.head _))
    exact sameEnding_retireS hs (by rw [ha, hb])
  case addc rd ra rb | subb rd ra rb =>
    have ha := full (.head _)
    have hb := full (.tail _ (.head _))
    exact sameEnding_retireV_setCF (by rw [hs.bits, hs.cf, ha, hb]) (by rw [hs.bits, hs.cf, ha, hb])
  case lsh rd ra rb | rsh rd ra rb =>
    have ha := full (.head _)
    have hn : s.shiftAmount rb = s'.shiftAmount rb := congrArg BitVec.toNat (sreg (.tail _ (.head _)))
    exact sameEnding_retireV hs (by rw [hs.bits, ha, hn])
  case bit rd ra rb =>
    have ha := full (.head _)
    have hn : s.bitIndex rb = s'.bitIndex rb := congrArg BitVec.toInt (sreg (.tail _ (.head _)))
    exact sameEnding_retireS hs (by rw [hs.bits, ha, hn])
  case mulx rd re ra rb =>
    have ha := full (.head _)
    have hb := full (.tail _ (.head _))
    simp only [exec, execMulx]
    split
    · exact sameEnding_takeFault ..
    · exact sameEnding_retireVV hs ‹_› (by rw [hs.bits, ha, hb]) (by rw [hs.bits, ha, hb])
  case quoRem rd re ra rb =>
    have ha := full (.head _)
    have hb := full (.tail _ (.head _))
    exact sameEnding_quoRemBy hs ha hb
  case quoRem64 rd re ra rb | quoRem128 rd re ra rb | quoRem256 rd re ra rb =>
    have ha := full (.head _)
    exact sameEnding_quoRemBy hs ha (low (.tail _ (.head _)))
  case quoRem512 rd re ra rb =>
    have ha := full (.head _)
    simp only [exec, execQuoRem512, ← hs.width]
    split
    · exact sameEnding_quoRemBy hs ha (low (k := 8) (.tail _ (.head _)))
    · exact sameEnding_takeFault ..
  case divx rd re ra rb rc =>
    have ha := full (.head _)
    have hb := full (.tail _ (.head _))
    have hc := full (.tail _ (.tail _ (.head _)))
    simp only [exec, execDivx, hs.bits, ha, hb, hc]
    split
    · exact sameEnding_takeFault ..
    · split
      · exact sameEnding_takeFault ..
      · exact sameEnding_retireVV hs ‹_› rfl rfl

/-- Every command takes a fault, or completes and writes its destinations only (R41, R306). `exec_sameEnding` with one state
in both places gives its ending. -/
theorem exec_faults_or_completes (i : Instr) (s : State) :
    ∃ t, exec i s = .next t ∧
      ((∃ code, Faults code s t) ∨ Completes (vDestinations i) (sDestinations i) s t) := by
  obtain ⟨e, b, he, ht, -⟩ := exec_sameEnding (.refl s) i fun src _ => agreeOn_refl s src
  exact ⟨_, ht, Ending.after_faults_or_completes he s b⟩

/-- Settles O46: both states take one ending, and one ending gives one result. -/
theorem outcomeDependsOnSourcesOnly : Obligations.OutcomeDependsOnSourcesOnly := by
  intro i s s' t t' hw hrun hfcmd hcf hsrc ht ht'
  have hs : SameControl s s' := ⟨hw, hrun, hfcmd, hcf⟩
  obtain ⟨e, b, he, hx, hx'⟩ := exec_sameEnding hs i hsrc
  obtain rfl : e.after s b = t := by simpa using hx.symm.trans ht
  obtain rfl : e.after s' b = t' := by simpa using hx'.symm.trans ht'
  exact Ending.after_sameResult he hs b

/-! ### What no step undoes -/

/-- `t` has the width of `s`, clears no mark of the run that stood in `s`, and takes no draw back. -/
def KeepsMarks (s t : State) : Prop :=
  t.width = s.width ∧ (s.refusedMark = true → t.refusedMark = true) ∧
    (s.unwrittenMark = true → t.unwrittenMark = true) ∧ s.draws ≤ t.draws

theorem KeepsMarks.refl (s : State) : KeepsMarks s s := ⟨rfl, id, id, Nat.le_refl _⟩

theorem KeepsMarks.trans {s t u : State} (h : KeepsMarks s t) (h' : KeepsMarks t u) : KeepsMarks s u := by
  obtain ⟨hw, hr, hu, hd⟩ := h
  obtain ⟨hw', hr', hu', hd'⟩ := h'
  exact ⟨hw'.trans hw, hr' ∘ hr, hu' ∘ hu, hd.trans hd'⟩

theorem KeepsMarks.of_keepsRun {s t : State} (h : KeepsRun s t) : KeepsMarks s t := by
  obtain ⟨hw, hr, hu, -, -, -, hd⟩ := h
  exact ⟨hw, hr.trans, hu.trans, hd.ge⟩

theorem keepsRun_of_faults {code : FaultCode} {s t : State} (h : Faults code s t) : KeepsRun s t := by
  obtain ⟨-, -, -, -, -, -, -, -, h⟩ := h
  exact h

theorem keepsRun_of_completes {vs ss : List Reg} {s t : State} (h : Completes vs ss s t) : KeepsRun s t := by
  obtain ⟨-, -, -, -, -, -, h⟩ := h
  exact h

theorem noteReads_keepsMarks (s : State) (srcs : List Source) : KeepsMarks s (s.noteReads srcs) :=
  ⟨rfl, id, fun h => by simp [h], Nat.le_refl _⟩

theorem exec_keepsMarks (i : Instr) (s : State) : ∃ t, exec i s = .next t ∧ KeepsMarks s t := by
  obtain ⟨t, ht, ⟨_, h⟩ | h⟩ := exec_faults_or_completes i s
  · exact ⟨t, ht, .of_keepsRun (keepsRun_of_faults h)⟩
  · exact ⟨t, ht, .of_keepsRun (keepsRun_of_completes h)⟩

theorem coreStep_keepsMarks (c : BitVec 64) (s : State) : ∃ t, coreStep c s = .next t ∧ KeepsMarks s t := by
  obtain ⟨_, -, h⟩ | ⟨i, -, h⟩ := coreStep_cases c s
  · exact ⟨_, h, KeepsMarks.refl s⟩
  · obtain ⟨t, ht, hk⟩ := exec_keepsMarks i (s.noteReads (sourcesOf i))
    exact ⟨t, h.trans ht, (noteReads_keepsMarks s _).trans hk⟩

theorem refuse_keepsMarks (s : State) : KeepsMarks s s.refuse := ⟨rfl, fun _ => rfl, id, Nat.le_refl _⟩

theorem noteHostRead_keepsMarks (s : State) (t : Target) : KeepsMarks s (s.noteHostRead t) := by
  cases t with
  | vLimb r j | sReg r => exact ⟨rfl, id, fun h => by simp [State.noteHostRead, h], Nat.le_refl _⟩
  | cmd | cr | fcmd | id => exact .refl s

theorem hostRead_keepsMarks (s : State) (off size : Nat) : KeepsMarks s (s.hostRead off size) := by
  unfold State.hostRead
  split
  · exact refuse_keepsMarks s
  next t _ =>
    split
    · exact refuse_keepsMarks s
    · split
      · exact refuse_keepsMarks s
      · exact noteHostRead_keepsMarks s t

theorem writeTarget_keepsMarks {s s' : State} {v : BitVec 64} {t : Target} (h : s.writeTarget v t = some s') :
    KeepsMarks s s' := by
  cases t with
  | vLimb r j =>
    cases h
    exact ⟨by simp, id, id, Nat.le_refl _⟩
  | sReg r =>
    cases h
    exact ⟨rfl, id, id, Nat.le_refl _⟩
  | cmd =>
    rw [State.writeTarget] at h
    split at h
    · cases h
      exact ⟨rfl, id, id, Nat.le_succ _⟩
    all_goals
      cases h
      exact .refl s
  | cr =>
    cases h
    exact ⟨rfl, id, id, Nat.le_refl _⟩
  | fcmd | id => cases h

theorem hostWrite_keepsMarks (s : State) (off size : Nat) (v : BitVec 64) : KeepsMarks s (s.hostWrite off size v) := by
  unfold State.hostWrite
  split
  · exact refuse_keepsMarks s
  · split
    · exact refuse_keepsMarks s
    · split
      · exact refuse_keepsMarks s
      next h =>
        have hk := writeTarget_keepsMarks h
        exact hk

theorem serve_keepsMarks (s : State) (e : HostEvent) : KeepsMarks s (s.serve e) := by
  cases e with
  | read off size => exact hostRead_keepsMarks s off size
  | write off size v => exact hostWrite_keepsMarks s off size v
  | reset => exact ⟨State.width_resetInput s, id, id, Nat.le_refl _⟩

/-- Taking the event off the host's list, before it is served, touches no mark. -/
theorem serve_rest_keepsMarks (s : State) (e : HostEvent) (rest : List HostEvent) :
    KeepsMarks s ({ s with host := rest }.serve e) := serve_keepsMarks { s with host := rest } e

theorem hostTurn_keepsMarks (s : State) : KeepsMarks s (hostTurn s) := by
  unfold hostTurn
  split
  · exact .refl s
  · exact serve_rest_keepsMarks s _ _

theorem busyTurn_keepsMarks (c : BitVec 64) (k : Nat) (e : HostEvent) (rest : List HostEvent) (s : State) :
    KeepsMarks s (busyTurn c k e rest s) := by
  unfold busyTurn
  split
  · exact serve_rest_keepsMarks s e rest
  · exact serve_rest_keepsMarks s e rest

/-- Settles O47: whoever moves, the core or the host, keeps the width, the marks and the draws. -/
theorem everyStepKeepsWidthAndMarks : Obligations.EveryStepKeepsWidthAndMarks := by
  intro s
  change ∃ t, step s = .next t ∧ KeepsMarks s t
  obtain ⟨c, _, -, h⟩ | ⟨c, k, e, rest, -, -, h⟩ | ⟨-, h⟩ := step_cases s
  · rw [h]
    exact coreStep_keepsMarks c s
  · exact ⟨_, h, busyTurn_keepsMarks c k e rest s⟩
  · exact ⟨_, h, hostTurn_keepsMarks s⟩

end Sys2Proof.Machine
end

section
/-! SUPPORT. O44, O45, O42 and O43. The fault record is FC with FCMD. Three facts keep it: what the decoder accepts is well-formed, a
command raises only the faults its rule names, and the host's side writes FCMD at reset alone. -/

namespace Sys2Proof.Machine

open Sys2Proof.Safety

/-! ### What the decoder accepts is well-formed -/

theorem legalAt_instr (op : Opcode) (f : Fields) (w : Width) : (op.instr f).legalAt w = op.legalAt w := by
  cases op <;> rfl

theorem distinctDestinations_instr (op : Opcode) (f : Fields) :
    (op.instr f).distinctDestinations = !(op.format.usesRe && f.rd == f.re) := by
  cases op <;> rfl

/-- A value the decoder accepts is the command of an opcode legal at `w`, with two destinations that differ, if it has two. -/
theorem eq_instr_of_decode {w : Width} {v : BitVec 64} {i : Instr} (h : decode w v = .ok i) :
    ∃ (op : Opcode) (f : Fields), i = op.instr f ∧ op.legalAt w = true ∧ (op.format.usesRe = true → f.rd ≠ f.re) := by
  simp only [decode] at h
  split at h
  · cases h
  · split at h
    · cases h
    · split at h
      · cases h
      next op _ =>
        split at h
        · cases h
        next hl =>
          split at h
          · cases h
          · split at h
            · cases h
            next hd =>
              cases h
              exact ⟨op, _, rfl, by simpa using hl, fun hu he => hd ⟨hu, he⟩⟩

theorem wellFormed_of_decode {w : Width} {v : BitVec 64} {i : Instr} (h : decode w v = .ok i) :
    i.wellFormed w = true := by
  obtain ⟨op, f, rfl, hl, hd⟩ := eq_instr_of_decode h
  simpa [Instr.wellFormed, legalAt_instr, distinctDestinations_instr, hl, imp_iff_not_or] using hd

/-! ### How a command ends, in the control state -/

/-- The faults that a command, run at width `w`, can end in (R300): ILLEGAL_COMMAND is left to the terms the decoder never
yields. -/
def MayRaise (w : Width) (i : Instr) : FaultCode → Prop
  | .divideByZero => canDivideByZero i = true
  | .quotientOverflow => ∃ rd re ra rb rc, i = .divx rd re ra rb rc
  | .illegalCommand => i.wellFormed w = false

/-- The command ended in IDLE, with FCMD kept, and CF kept too unless the command is one that writes it. -/
def RetiresTo (i : Instr) (s t : State) : Prop :=
  t.run = .idle ∧ t.fcmd = s.fcmd ∧ (writesCF i = false → t.cf = s.cf)

/-- The outcome `o` of `i` in `s` is a fault that `i` may raise, or the end of the command. -/
def EndsProperly (i : Instr) (s : State) (o : Host.Outcome State Fault Refusal) : Prop :=
  (∃ code, MayRaise s.width i code ∧ o = s.takeFault code) ∨ ∃ t, o = .next t ∧ RetiresTo i s t

theorem endsProperly_retireV (i : Instr) (s : State) (rd : Reg) (x : Nat) : EndsProperly i s (s.retireV rd x) :=
  .inr ⟨_, rfl, rfl, rfl, fun _ => rfl⟩

theorem endsProperly_retireVV (i : Instr) (s : State) (rd re : Reg) (x y : Nat) :
    EndsProperly i s (s.retireVV rd re x y) :=
  .inr ⟨_, rfl, rfl, rfl, fun _ => rfl⟩

theorem endsProperly_retireS (i : Instr) (s : State) (rd : Reg) (x : BitVec 64) : EndsProperly i s (s.retireS rd x) :=
  .inr ⟨_, rfl, rfl, rfl, fun _ => rfl⟩

theorem endsProperly_takeFault {i : Instr} {s : State} {code : FaultCode} (h : MayRaise s.width i code) :
    EndsProperly i s (s.takeFault code) :=
  .inl ⟨code, h, rfl⟩

/-- QUOREM and its narrowing forms: equal destinations are no well-formed command, and a zero divisor is theirs to raise. -/
theorem endsProperly_quoRemBy {i : Instr} {s : State} {rd re : Reg} (hi : rd = re → i.wellFormed s.width = false)
    (hz : canDivideByZero i = true) (u v : Nat) : EndsProperly i s (s.quoRemBy rd re u v) := by
  unfold State.quoRemBy
  split
  next h => exact endsProperly_takeFault (hi h)
  · split
    · exact endsProperly_takeFault hz
    · exact endsProperly_retireVV ..

/-- The two faults of `Div_k` (R14). -/
theorem divK_error {k hi lo y : Nat} {code : FaultCode} (h : divK k hi lo y = .error code) :
    code = .divideByZero ∨ code = .quotientOverflow := by
  unfold divK at h
  split at h
  · exact .inl (Except.error.inj h).symm
  · split at h
    · exact .inr (Except.error.inj h).symm
    · cases h

/-- Every command ends properly, in every state. -/
theorem exec_endsProperly (i : Instr) (s : State) : EndsProperly i s (exec i s) := by
  have wrongWidth (h : i.legalAt s.width = false) : i.wellFormed s.width = false := by simp [Instr.wellFormed, h]
  have sameDest (h : i.distinctDestinations = false) : i.wellFormed s.width = false := by simp [Instr.wellFormed, h]
  cases i
  case nop | clc | stc | addc | subb => exact .inr ⟨_, rfl, rfl, rfl, by simp [writesCF]⟩
  case isZero | eq | cmp | eqH | cmpH | bitLen | clz | ctz | popcnt | bit => exact endsProperly_retireS ..
  case from512 rd ra =>
    simp only [exec, execFrom512]
    split
    · exact endsProperly_retireV ..
    next h => exact endsProperly_takeFault (wrongWidth (beq_eq_false_iff_ne.2 h))
  case mulx rd re ra rb =>
    simp only [exec, execMulx]
    split
    next h => exact endsProperly_takeFault (sameDest (bne_eq_false_iff_eq.2 h))
    · exact endsProperly_retireVV ..
  case quoRem | quoRem64 | quoRem128 | quoRem256 =>
    exact endsProperly_quoRemBy (fun h => sameDest (bne_eq_false_iff_eq.2 h)) rfl ..
  case quoRem512 rd re ra rb =>
    simp only [exec, execQuoRem512]
    split
    · exact endsProperly_quoRemBy (fun h => sameDest (bne_eq_false_iff_eq.2 h)) rfl ..
    next h => exact endsProperly_takeFault (wrongWidth (beq_eq_false_iff_ne.2 h))
  case divx rd re ra rb rc =>
    simp only [exec, execDivx]
    split
    next h => exact endsProperly_takeFault (sameDest (bne_eq_false_iff_eq.2 h))
    · split
      next h =>
        obtain rfl | rfl := divK_error h
        · exact endsProperly_takeFault rfl
        · exact endsProperly_takeFault ⟨rd, re, ra, rb, rc, rfl⟩
      · exact endsProperly_retireVV ..
  all_goals exact endsProperly_retireV ..

/-- Settles O43: the ending of each command is `exec_faults_or_completes`. -/
theorem everyCommandCompletesOrFaults : Obligations.EveryCommandCompletesOrFaults :=
  exec_faults_or_completes

/-- Settles O42: fault entry leaves CF, and only the four commands write it when they retire. -/
theorem onlyFourCommandsWriteCarry : Obligations.OnlyFourCommandsWriteCarry := by
  intro i s t hclc hstc hcarry ht
  have hcf : writesCF i = false := by
    cases i
    case clc => exact absurd rfl hclc
    case stc => exact absurd rfl hstc
    case addc rd ra rb => exact absurd rfl (hcarry rd ra rb).1
    case subb rd ra rb => exact absurd rfl (hcarry rd ra rb).2
    all_goals rfl
  obtain ⟨code, -, h⟩ | ⟨u, h, -, -, hu⟩ := exec_endsProperly i s
  · cases ht.symm.trans h
    rfl
  · cases ht.symm.trans h
    exact hu hcf

/-! ### The fault record, by run state -/

/-- The CMD value `c` can raise `code` at width `w` (R300). -/
def RaisedBy (w : Width) (c : BitVec 64) : FaultCode → Prop
  | .illegalCommand => ∃ e, decode w c = .error e
  | .divideByZero => ∃ i, decode w c = .ok i ∧ canDivideByZero i = true
  | .quotientOverflow => ∃ rd re ra rb rc, decode w c = .ok (.divx rd re ra rb rc)

theorem faultRecord_iff_of_not_faulted {s : State} (h : s.flt = false) : FaultRecord s ↔ s.fcmd = 0 := by
  unfold State.flt at h
  unfold FaultRecord
  split <;> simp_all

theorem faultRecord_iff_of_faulted {s : State} {code : FaultCode} (h : s.run = .faulted code) :
    FaultRecord s ↔ RaisedBy s.width s.fcmd code := by
  cases code <;> simp only [FaultRecord, h, RaisedBy]

/-- The record is read from the run state, FCMD and W alone. -/
theorem faultRecord_congr {s t : State} (h : FaultRecord s) (hrun : t.run = s.run) (hfcmd : t.fcmd = s.fcmd)
    (hw : t.width = s.width) : FaultRecord t := by
  simpa only [FaultRecord, hrun, hfcmd, hw] using h

theorem flt_of_run_idle {s : State} (h : s.run = .idle) : s.flt = false := by simp [State.flt, h]

theorem flt_of_run_busy {s : State} {c : BitVec 64} {k : Nat} (h : s.run = .busy c k) : s.flt = false := by
  simp [State.flt, h]

/-! ### The core's side -/

/-- A fault that a decoded command may raise is one its CMD value can raise. -/
theorem raisedBy_of_mayRaise {w : Width} {c : BitVec 64} {i : Instr} {code : FaultCode} (hd : decode w c = .ok i)
    (h : MayRaise w i code) : RaisedBy w c code := by
  cases code with
  | divideByZero => exact ⟨i, hd, h⟩
  | quotientOverflow =>
    obtain ⟨rd, re, ra, rb, rc, rfl⟩ := h
    exact ⟨rd, re, ra, rb, rc, hd⟩
  | illegalCommand => exact absurd (wellFormed_of_decode hd) (by simpa [MayRaise] using h)

/-- Fault entry records the value in flight (R306). -/
theorem faultRecord_raise {s : State} {c : BitVec 64} {k : Nat} {code : FaultCode} (hrun : s.run = .busy c k)
    (h : RaisedBy s.width c code) : FaultRecord (s.raise code) := by
  rw [faultRecord_iff_of_faulted (State.raise_run s code)]
  simpa [State.cmdInFlight, hrun] using h

theorem coreStep_faultRecord {s t : State} {c : BitVec 64} {k : Nat} (hrun : s.run = .busy c k) (hs : FaultRecord s)
    (ht : coreStep c s = .next t) : FaultRecord t := by
  obtain ⟨e, hd, h⟩ | ⟨i, hd, h⟩ := coreStep_cases c s
  · cases ht.symm.trans h
    exact faultRecord_raise hrun ⟨e, hd⟩
  · obtain ⟨code, hm, hx⟩ | ⟨u, hx, hidle, hfcmd, -⟩ := exec_endsProperly i (s.noteReads (sourcesOf i))
    · cases ht.symm.trans (h.trans hx)
      exact faultRecord_raise hrun (raisedBy_of_mayRaise hd hm)
    · cases ht.symm.trans (h.trans hx)
      rw [faultRecord_iff_of_not_faulted (flt_of_run_idle hidle), hfcmd]
      exact (faultRecord_iff_of_not_faulted (flt_of_run_busy hrun)).1 hs

/-! ### The host's side -/

/-- A host read is refused, or answers a value and notes whether it read something unwritten. -/
theorem hostRead_cases (s : State) (off size : Nat) :
    s.hostRead off size = s.refuse ∨ ∃ t v, s.hostRead off size = (s.noteHostRead t).answerRead v := by
  unfold State.hostRead
  split
  · exact .inl rfl
  · split
    · exact .inl rfl
    · split
      · exact .inl rfl
      · exact .inr ⟨_, _, rfl⟩

/-- Noting a host read changes the UNWRITTEN_READ mark and nothing else. -/
theorem noteHostRead_eq (s : State) (t : Target) : ∃ m, s.noteHostRead t = { s with unwrittenMark := m } := by
  cases t <;> exact ⟨_, rfl⟩

/-- R67: a host read changes no register, flag, run state or FCMD. -/
theorem hostRead_frame (s : State) (off size : Nat) :
    (s.hostRead off size).v = s.v ∧ (s.hostRead off size).s = s.s ∧ (s.hostRead off size).cf = s.cf ∧
      (s.hostRead off size).run = s.run ∧ (s.hostRead off size).fcmd = s.fcmd := by
  obtain h | ⟨t, v, h⟩ := hostRead_cases s off size
  · rw [h]
    exact ⟨rfl, rfl, rfl, rfl, rfl⟩
  · obtain ⟨m, hm⟩ := noteHostRead_eq s t
    rw [h, hm]
    exact ⟨rfl, rfl, rfl, rfl, rfl⟩

theorem hostRead_faultRecord {s : State} (hs : FaultRecord s) (off size : Nat) : FaultRecord (s.hostRead off size) := by
  obtain ⟨hv, -, -, hrun, hfcmd⟩ := hostRead_frame s off size
  exact faultRecord_congr hs hrun hfcmd (congrArg VFile.width hv)

/-- An accepted write records no fault: only a CMD write changes the run state, from IDLE to BUSY (R41). -/
theorem writeTarget_faultRecord {s s' : State} {v : BitVec 64} {t : Target} (hs : FaultRecord s)
    (h : s.writeTarget v t = some s') : FaultRecord s' := by
  cases t with
  | vLimb r j =>
    cases h
    exact faultRecord_congr hs rfl rfl (State.width_setLimb s r j v)
  | sReg r | cr =>
    cases h
    exact faultRecord_congr hs rfl rfl rfl
  | cmd =>
    rw [State.writeTarget] at h
    split at h
    next hidle =>
      cases h
      rw [faultRecord_iff_of_not_faulted (flt_of_run_busy (State.issue_run s v))]
      exact (faultRecord_iff_of_not_faulted (flt_of_run_idle hidle)).1 hs
    all_goals
      cases h
      exact hs
  | fcmd | id => cases h

theorem refuse_faultRecord {s : State} (hs : FaultRecord s) : FaultRecord s.refuse := faultRecord_congr hs rfl rfl rfl

theorem hostWrite_faultRecord {s : State} (hs : FaultRecord s) (off size : Nat) (v : BitVec 64) :
    FaultRecord (s.hostWrite off size v) := by
  unfold State.hostWrite
  split
  · exact refuse_faultRecord hs
  · split
    · exact refuse_faultRecord hs
    · split
      · exact refuse_faultRecord hs
      next h => exact faultRecord_congr (writeTarget_faultRecord hs h) rfl rfl rfl

/-- Whatever the host does, served in any run state, the fault record stays consistent. -/
theorem serve_faultRecord {s : State} (hs : FaultRecord s) (e : HostEvent) : FaultRecord (s.serve e) := by
  cases e with
  | read off size => exact hostRead_faultRecord hs off size
  | write off size v => exact hostWrite_faultRecord hs off size v
  | reset => exact (faultRecord_iff_of_not_faulted (flt_of_run_idle (State.resetInput_run s))).2 (State.resetInput_fcmd s)

theorem hostTurn_faultRecord {s : State} (hs : FaultRecord s) : FaultRecord (hostTurn s) := by
  unfold hostTurn
  split
  · exact hs
  next e rest _ =>
    have hrest : FaultRecord { s with host := rest } := hs
    exact serve_faultRecord hrest e

/-- Using up a poll keeps the block BUSY on the same value, with FCMD as the CR read left it. -/
theorem busyTurn_faultRecord {s : State} {c : BitVec 64} {k : Nat} (hrun : s.run = .busy c (k + 1))
    (hs : FaultRecord s) (e : HostEvent) (rest : List HostEvent) : FaultRecord (busyTurn c k e rest s) := by
  have hserved : FaultRecord ({ s with host := rest }.serve e) := serve_faultRecord (s := { s with host := rest }) hs e
  unfold busyTurn
  split
  next hread =>
    cases e with
    | read off size =>
      obtain ⟨-, -, -, hrun', -⟩ := hostRead_frame { s with host := rest } off size
      exact (faultRecord_iff_of_not_faulted (flt_of_run_busy (hrun'.trans hrun))).1 hserved
    | write off size v => cases hread
    | reset => cases hread
  · exact hserved

/-- Settles O44: the record is kept by the core's step, by an event served while BUSY, and by the host's turn. -/
theorem everyStepKeepsTheFaultRecord : Obligations.EveryStepKeepsTheFaultRecord := by
  intro s t hs ht
  obtain ⟨c, k, hrun, h⟩ | ⟨c, k, e, rest, hrun, -, h⟩ | ⟨-, h⟩ := step_cases s
  · exact coreStep_faultRecord hrun hs (h.symm.trans ht)
  · cases ht.symm.trans h
    exact busyTurn_faultRecord hrun hs e rest
  · cases ht.symm.trans h
    exact hostTurn_faultRecord hs

/-- Settles O45: reset leaves IDLE with FCMD 0. -/
theorem faultRecordAtReset : Obligations.FaultRecordAtReset :=
  fun _ => (faultRecord_iff_of_not_faulted rfl).2 rfl

end Sys2Proof.Machine
end

section
/-! SUPPORT. O1, O3, O4, O5, O11 and O14. What reset leaves, the fields of CR, and the host's accesses to CMD, CR, FCMD and ID: an
accepted access is served by one step of a block that is not BUSY, and while BUSY a CR read is. -/

namespace Sys2Proof.Machine

open Sys2Proof.Safety

/-! ### Reset -/

theorem VReg.written_reset (l j : Nat) : (VReg.reset l).written.toList.getD j false = false := by
  by_cases h : j < l <;> simp [VReg.reset, h]

theorem VFile.limbWritten_reset (w : Width) (r : Reg) (j : Nat) : (VFile.reset w).limbWritten r j = false := by
  have get {l : Nat} : (Vector.replicate 16 (VReg.reset l)).get r = VReg.reset l := by simp [Vector.get_eq_getElem]
  cases w with
  | w512 | w1024 =>
    simp only [VFile.reset, VFile.limbWritten, get]
    exact VReg.written_reset _ j

/-- Settles O1: W is the constructor of the V file, no written bit is set, and the rest is 0 by definition. -/
theorem resetLeavesStatedValues : Obligations.ResetLeavesStatedValues := by
  intro w
  have hs (r : Reg) : (State.resetAt w).sWritten r = false := by
    simp [State.resetAt, State.sWritten, SReg.reset, Vector.get_eq_getElem]
  exact ⟨State.resetAt_width w, rfl, rfl, rfl, rfl, rfl, rfl, rfl, VFile.limbWritten_reset w, hs⟩

/-! ### The fields of CR -/

/-- BUSY, FLT and FC in the three run states (R41). -/
theorem busy_flt_fc_cases (s : State) :
    (s.busy = false ∧ s.flt = false ∧ s.fc = 0) ∨ (s.busy = true ∧ s.flt = false ∧ s.fc = 0) ∨
      (s.busy = false ∧ s.flt = true ∧ 1 ≤ s.fc ∧ s.fc ≤ 3) := by
  cases h : s.run with
  | idle => exact .inl (by simp [State.busy, State.flt, State.fc, h])
  | busy c k => exact .inr (.inl (by simp [State.busy, State.flt, State.fc, h]))
  | faulted code => exact .inr (.inr (by cases code <;> simp [State.busy, State.flt, State.fc, FaultCode.number, h]))

/-- CR's fields read back from its value, for any three flags and a two-bit code. -/
theorem packedCr_fields (cf busy flt : Bool) (fc : Fin 4) :
    let cr := BitVec.ofNat 64 (cf.toNat + 2 * busy.toNat + 4 * flt.toNat + 16 * fc.val)
    cr.getLsbD 0 = cf ∧ cr.getLsbD 1 = busy ∧ cr.getLsbD 2 = flt ∧ cr.getLsbD 3 = false ∧
      cr.toNat / 2 ^ 4 % 2 ^ 4 = fc.val ∧ cr.toNat / 2 ^ 8 = 0 := by
  revert cf busy flt fc
  decide

/-- Settles O3: the fields are those `crValue` packs, and the run state ties BUSY, FLT and FC. -/
theorem controlRegisterLayout : Obligations.ControlRegisterLayout := by
  intro s
  have hfc : s.fc ≤ 3 := by obtain ⟨-, -, h⟩ | ⟨-, -, h⟩ | ⟨-, -, -, h⟩ := busy_flt_fc_cases s <;> omega
  have htie : (s.flt = true ↔ s.fc ≠ 0) ∧ ¬ (s.busy = true ∧ s.flt = true) := by
    obtain ⟨hb, hf, h⟩ | ⟨hb, hf, h⟩ | ⟨hb, hf, h, -⟩ := busy_flt_fc_cases s
    · simp [hb, hf, h]
    · simp [hb, hf, h]
    · simp [hb, hf]
      omega
  obtain ⟨h0, h1, h2, h3, h4, h8⟩ := packedCr_fields s.cf s.busy s.flt ⟨s.fc, by omega⟩
  exact ⟨h0, h1, h2, h3, h4, h8, htie.1, hfc, htie.2⟩

/-! ### An accepted access, served in one step -/

theorem hostWrite_accepted {s s' : State} {off size : Nat} {v : BitVec 64} {t : Target}
    (h : accessTarget s.width off size = some t) (hb : s.busy = false) (hv : s.writeTarget v t = some s') :
    s.hostWrite off size v = s'.answer .done := by
  simp [State.hostWrite, h, hb, hv]

theorem step_of_host_cons {s : State} {e : HostEvent} {rest : List HostEvent} (hb : s.busy = false)
    (hh : s.host = e :: rest) : step s = .next ({ s with host := rest }.serve e) := by
  rw [step_of_not_busy hb, hostTurn_cons hh]

section
variable {s : State} {off size : Nat} {rest : List HostEvent} {t : Target}

/-- Outside BUSY an accepted read is answered by the next step. -/
theorem step_read_accepted {x : BitVec 64} (hb : s.busy = false) (hh : s.host = .read off size :: rest)
    (ht : accessTarget s.width off size = some t) (hx : s.windowValue t = some x) :
    step s = .next (({ s with host := rest }.noteHostRead t).answerRead x) := by
  have hx' : { s with host := rest }.windowValue t = some x := by cases t <;> exact hx
  rw [step_of_host_cons hb hh]
  exact congrArg _ (hostRead_accepted (s := { s with host := rest }) ht (fun ⟨h, _⟩ => by cases hb.symm.trans h) hx')

/-- Outside BUSY an accepted write is carried out by the next step. -/
theorem step_write_accepted {v : BitVec 64} {s' : State} (hb : s.busy = false)
    (hh : s.host = .write off size v :: rest) (ht : accessTarget s.width off size = some t)
    (hv : { s with host := rest }.writeTarget v t = some s') : step s = .next (s'.answer .done) := by
  rw [step_of_host_cons hb hh]
  exact congrArg _ (hostWrite_accepted (s := { s with host := rest }) ht hb hv)

end

/-! The four control registers stand at 0x880, 0x888, 0x890 and 0x898 at either width (R61). -/

theorem accessTarget_cmd (w : Width) : accessTarget w 0x880 8 = some .cmd := rfl
theorem accessTarget_cr (w : Width) : accessTarget w 0x888 8 = some .cr := rfl
theorem accessTarget_fcmd (w : Width) : accessTarget w 0x890 8 = some .fcmd := rfl
theorem accessTarget_id (w : Width) : accessTarget w 0x898 8 = some .id := rfl

theorem busy_of_run_idle {s : State} (h : s.run = .idle) : s.busy = false := by simp [State.busy, h]

theorem busy_of_run_busy {s : State} {c : BitVec 64} {k : Nat} (h : s.run = .busy c k) : s.busy = true := by
  simp [State.busy, h]

theorem busy_of_run_faulted {s : State} {code : FaultCode} (h : s.run = .faulted code) : s.busy = false := by
  simp [State.busy, h]

/-- The host moves outside BUSY, and while BUSY as long as a drawn poll is to come. -/
theorem hostMoves_cases {s : State} (h : HostMoves s) : s.busy = false ∨ ∃ c k, s.run = .busy c (k + 1) := by
  cases hr : s.run with
  | idle => exact .inl (busy_of_run_idle hr)
  | faulted code => exact .inl (busy_of_run_faulted hr)
  | busy c k =>
    cases k with
    | zero => exact absurd hr (h c)
    | succ k => exact .inr ⟨c, k, rfl⟩

/-- While BUSY a CR read is answered and uses one poll up (R350, R353). -/
theorem step_crRead_of_busy {s : State} {c : BitVec 64} {k : Nat} {rest : List HostEvent}
    (hr : s.run = .busy c (k + 1)) (hh : s.host = .read 0x888 8 :: rest) :
    step s = .next { ({ s with host := rest }.answerRead s.crValue) with run := .busy c k } := by
  have hread : { s with host := rest }.hostRead 0x888 8 = { s with host := rest }.answerRead s.crValue :=
    hostRead_accepted (accessTarget_cr _) (fun h => h.2 rfl) rfl
  have hcr : isCrRead s.width (.read 0x888 8) = true := by simp [isCrRead, accessTarget_cr]
  rw [step_of_busy_cons hr hh, busyTurn, if_pos hcr, State.serve, hread]

theorem served_answerRead (s : State) (rest : List HostEvent) (x : BitVec 64) :
    Served (.data x) rest s ({ s with host := rest }.answerRead x) := ⟨rfl, rfl, rfl, rfl, rfl, rfl, rfl⟩

/-- Settles O4: outside BUSY the read and the write are accepted accesses to CR; while BUSY the read uses one poll up. -/
theorem controlRegisterAccess : Obligations.ControlRegisterAccess := by
  intro s rest
  constructor
  · intro hh hm
    obtain hb | ⟨c, k, hr⟩ := hostMoves_cases hm
    · refine ⟨_, step_read_accepted hb hh (accessTarget_cr _) rfl, served_answerRead s rest _, rfl, rfl, rfl, rfl,
        fun _ => rfl, fun c k hr => ?_⟩
      cases hb.symm.trans (busy_of_run_busy hr)
    · refine ⟨_, step_crRead_of_busy hr hh, served_answerRead s rest _, rfl, rfl, rfl, rfl, fun hb => ?_, ?_⟩
      · cases hb.symm.trans (busy_of_run_busy hr)
      · intro c' k' hr'
        cases hr.symm.trans hr'
        rfl
  · intro v hh hb
    exact ⟨_, step_write_accepted hb hh (accessTarget_cr _) rfl, ⟨rfl, rfl, rfl, rfl, rfl, rfl, rfl⟩,
      rfl, rfl, rfl, rfl, rfl⟩

theorem idValue_toNat (s : State) : s.idValue.toNat = s.width.bits := by
  have h : s.width.bits < 2 ^ 64 := by obtain h | h := bits_eq s.width <;> omega
  simpa [State.idValue, State.bits] using Nat.mod_eq_of_lt h

/-- Settles O5: the reads are accepted accesses outside BUSY, and ID is W, which every step keeps (O47). -/
theorem readOnlyRegisters : Obligations.ReadOnlyRegisters := by
  refine ⟨fun s rest hb => ⟨fun hh => ?_, fun hh => ?_⟩, fun s => ?_, fun s t ht => ?_⟩
  · exact ⟨_, step_read_accepted hb hh (accessTarget_fcmd _) rfl, served_answerRead s rest _, rfl, rfl, rfl, rfl⟩
  · exact ⟨_, step_read_accepted hb hh (accessTarget_id _) rfl, served_answerRead s rest _, rfl, rfl, rfl, rfl⟩
  · rw [idValue_toNat]
    exact ⟨by cases s.width <;> rfl, fun h => by rw [h]; rfl, fun h => by rw [h]; rfl⟩
  · obtain ⟨u, hu, hw, -⟩ := everyStepKeepsWidthAndMarks s
    cases ht.symm.trans hu
    rw [State.idValue, State.idValue, State.bits, State.bits, hw]

/-- Settles O11: the CMD write is an accepted access; the run state says whether it issues (R41). -/
theorem cmdWriteIssuesOrIsDiscarded : Obligations.CmdWriteIssuesOrIsDiscarded := by
  intro s v rest hh
  constructor
  · intro hr
    have hw : { s with host := rest }.writeTarget v .cmd = some ({ s with host := rest }.issue v) := by
      simp [State.writeTarget, hr]
    exact ⟨_, _, step_write_accepted (busy_of_run_idle hr) hh (accessTarget_cmd _) hw, rfl, rfl, rfl, rfl, rfl, rfl, rfl,
      rfl, rfl⟩
  · intro code hr
    have hw : { s with host := rest }.writeTarget v .cmd = some { s with host := rest } := by
      simp [State.writeTarget, hr]
    exact step_write_accepted (busy_of_run_faulted hr) hh (accessTarget_cmd _) hw

/-! ### The core's step -/

theorem coreStep_of_decode {s : State} {c : BitVec 64} {i : Instr} (h : decode s.width c = .ok i) :
    coreStep c s = exec i (s.noteReads (sourcesOf i)) := by
  simp [coreStep, h]

/-- Settles O14: the core moves with no poll left or no event pending, and a placed command has no poll left. -/
theorem stepRunsTheDecodedCommand : Obligations.StepRunsTheDecodedCommand := by
  refine ⟨fun s c k i hr hk hd => ?_, fun s nbits w i hd => ?_, noteReads_eq⟩
  · have hcore : step s = coreStep c s := by
      obtain rfl | hn := hk
      · exact step_of_busy_zero hr
      · exact step_of_busy_nil hr hn
    rw [hcore, coreStep_of_decode hd]
  · have hplaced : (s.withFetchWord nbits w).run = .busy (tableCmdValue nbits w) 0 := rfl
    have hd' : decode (s.withFetchWord nbits w).width (tableCmdValue nbits w) = .ok i := hd
    rw [step_of_busy_zero hplaced, coreStep_of_decode hd', State.withFetchWord, placeCommand]

end Sys2Proof.Machine
end

section
/-! SUPPORT. O6 to O10. The limbs of a register in place value, and the window map read backwards: which accesses reach a
register, hence which are refused, and what the step that serves an accepted one does. -/

namespace Sys2Proof.Machine

open Sys2Proof.Safety

/-! ### Slices and limbs in place value -/

/-- A slice of a slice, inside it, is a slice of the whole (R11). -/
theorem bitSlice_bitSlice {v lo n lo' n' : Nat} (h : lo' + n' ≤ n) :
    bitSlice (bitSlice v lo n) lo' n' = bitSlice v (lo + lo') n' := by
  obtain ⟨m, rfl⟩ := Nat.exists_eq_add_of_le h
  rw [bitSlice, bitSlice, bitSlice, Nat.add_assoc, Nat.pow_add 2 lo', Nat.mod_mul_right_div_self, Nat.div_div_eq_div_mul,
    ← Nat.pow_add, Nat.pow_add 2 n', Nat.mod_mul_right_mod]

/-- The limbs of the low `k` limbs are those of the whole. -/
theorem limbOf_mod {i k : Nat} (n : Nat) (h : i < k) : limbOf (n % 2 ^ (64 * k)) i = limbOf n i := by
  have hlow := bitSlice_bitSlice (v := n) (lo := 0) (n := 64 * k) (lo' := 64 * i) (n' := 64) (by omega)
  simpa [limbOf, bitSlice] using hlow

theorem limbOf_div (n k i : Nat) : limbOf (n / 2 ^ (64 * k)) i = limbOf n (k + i) := by
  rw [limbOf, limbOf, bitSlice, bitSlice, Nat.div_div_eq_div_mul, ← Nat.pow_add, Nat.mul_add]

theorem limbOf_lt (n j : Nat) : limbOf n j < 2 ^ 64 := Nat.mod_lt _ (by decide)

/-- The limbs below `j`, then `x`, then the limbs above `j`. -/
theorem replaceLimb_eq (n j x : Nat) :
    replaceLimb n j x = n % 2 ^ (64 * j) + 2 ^ (64 * j) * (x + 2 ^ 64 * (n / 2 ^ (64 * (j + 1)))) := by
  rw [replaceLimb, Nat.mul_add 64, Nat.pow_add]
  ring

theorem replaceLimb_mod (n j x : Nat) : replaceLimb n j x % 2 ^ (64 * j) = n % 2 ^ (64 * j) := by
  rw [replaceLimb_eq, Nat.add_mul_mod_self_left, Nat.mod_mod]

theorem replaceLimb_div (n j x : Nat) :
    replaceLimb n j x / 2 ^ (64 * j) = x + 2 ^ 64 * (n / 2 ^ (64 * (j + 1))) := by
  rw [replaceLimb_eq, Nat.add_mul_div_left _ _ (Nat.two_pow_pos _), Nat.div_eq_of_lt (Nat.mod_lt _ (Nat.two_pow_pos _)),
    Nat.zero_add]

theorem limbOf_replaceLimb_same (n j : Nat) {x : Nat} (hx : x < 2 ^ 64) : limbOf (replaceLimb n j x) j = x := by
  rw [limbOf, bitSlice, replaceLimb_div, Nat.add_mul_mod_self_left, Nat.mod_eq_of_lt hx]

theorem limbOf_replaceLimb_of_ne (n : Nat) {i j x : Nat} (hx : x < 2 ^ 64) (h : i ≠ j) :
    limbOf (replaceLimb n j x) i = limbOf n i := by
  obtain hlt | hgt := Nat.lt_or_gt_of_ne h
  · rw [← limbOf_mod _ hlt, replaceLimb_mod, limbOf_mod _ hlt]
  · have above : replaceLimb n j x / 2 ^ (64 * (j + 1)) = n / 2 ^ (64 * (j + 1)) := by
      rw [Nat.mul_add 64, Nat.pow_add, ← Nat.div_div_eq_div_mul, replaceLimb_div,
        Nat.add_mul_div_left _ _ (Nat.two_pow_pos _), Nat.div_eq_of_lt hx, Nat.zero_add, Nat.mul_add, Nat.pow_add]
    obtain ⟨m, rfl⟩ := Nat.exists_eq_add_of_lt hgt
    rw [Nat.add_right_comm, ← limbOf_div, above, limbOf_div]

/-- Limb `i` of V[r] after a host write of limb `j` (R63). -/
theorem State.limbOf_vreg_setLimb (s : State) (r : Reg) (j : Nat) (x : Limb) {i : Nat} (hi : i < s.width.limbs) :
    limbOf ((s.setLimb r j x).vreg r) i = if i = j then x.toNat else limbOf (s.vreg r) i := by
  rw [State.vreg_setLimb, if_pos rfl, State.bits, Width.bits, limbOf_mod _ hi]
  split
  next h => rw [h, limbOf_replaceLimb_same _ _ x.isLt]
  next h => exact limbOf_replaceLimb_of_ne _ x.isLt h

/-! ### The window's bytes -/

/-- Byte `b` of a register is byte `b % 8` of its limb `b / 8`. -/
theorem byteOf_limbOf (n b : Nat) : byteOf (limbOf n (b / 8)) (b % 8) = byteOf n b := by
  rw [byteOf, limbOf, bitSlice_bitSlice (by omega), byteOf, show 64 * (b / 8) + 8 * (b % 8) = 8 * b by omega]

theorem windowByte_of_windowValue {s : State} {b : Nat} {t : Target} {x : BitVec 64}
    (ht : windowMap s.width (b - b % 8) = some t) (hx : s.windowValue t = some x) :
    s.windowByte b = some (BitVec.ofNat 8 (byteOf x.toNat (b % 8))) := by
  simp [State.windowByte, ht, hx]

/-- Settles O8: the byte lies in limb `b / 8`, and a byte of a limb is a byte of the register. -/
theorem windowIsLittleEndian : Obligations.WindowIsLittleEndian := by
  intro s r b hb
  have hj : b / 8 < s.width.limbs := by
    rw [State.bits, Width.bits] at hb
    omega
  have hword : 0x80 * r.val + b - (0x80 * r.val + b) % 8 = 0x80 * r.val + 8 * (b / 8) := by omega
  have hat : windowMap s.width (0x80 * r.val + b - (0x80 * r.val + b) % 8) = some (.vLimb r (b / 8)) := by
    rw [hword, windowMap_limb _ r _ hj]
  have hbyte : (0x80 * r.val + b) % 8 = b % 8 := by omega
  have hlimb : (BitVec.ofNat 64 (limbOf (s.vreg r) (b / 8))).toNat = limbOf (s.vreg r) (b / 8) :=
    Nat.mod_eq_of_lt (limbOf_lt ..)
  rw [windowByte_of_windowValue hat rfl, hbyte, hlimb, byteOf_limbOf, Option.some.injEq]
  exact BitVec.eq_of_toNat_eq (by simp [byteOf, bitSlice])

/-! ### Host access to V and S -/

/-- An aligned access of 8 bytes reaches what the window map says (R65). -/
theorem accessTarget_aligned (w : Width) {off : Nat} (h : off % 8 = 0) : accessTarget w off 8 = windowMap w off :=
  if_pos ⟨rfl, h⟩

theorem accessTarget_limb {w : Width} (r : Reg) {j : Nat} (hj : j < w.limbs) :
    accessTarget w (0x80 * r.val + 8 * j) 8 = some (.vLimb r j) := by
  rw [accessTarget_aligned w (by omega), windowMap_limb w r j hj]

theorem accessTarget_sreg (w : Width) (r : Reg) : accessTarget w (0x800 + 8 * r.val) 8 = some (.sReg r) := by
  rw [accessTarget_aligned w (by omega), windowMap_sreg]

/-- In the strict reading a step after which the UNWRITTEN_READ mark stands has no next state (R310). -/
theorem strictStep_of_unwrittenMark {s t : State} (h : step s = .next t) (hu : t.unwrittenMark = true) :
    strictStep s = .fault .unwrittenRead := by
  simp [strictStep, h, hu]

/-- In the strict reading a step after which the REFUSED mark alone stands is refused (R311). -/
theorem strictStep_of_refusedMark {s t : State} (h : step s = .next t) (hu : t.unwrittenMark = false)
    (hr : t.refusedMark = true) : strictStep s = .refused .hostAccess := by
  simp [strictStep, h, hu, hr]

/-- Outside BUSY an accepted read of a register with a written bit: it answers the value, changes no register, and is
UNWRITTEN_READ if the bit is not set. -/
theorem step_read_noting_writtenBit {s : State} {off size : Nat} {rest : List HostEvent} {t : Target} {x : BitVec 64}
    {written : Bool} (hb : s.busy = false) (hh : s.host = .read off size :: rest)
    (ht : accessTarget s.width off size = some t) (hx : s.windowValue t = some x)
    (hnote : { s with host := rest }.noteHostRead t =
      { s with host := rest, unwrittenMark := s.unwrittenMark || !written }) :
    ∃ u, step s = .next u ∧ Served (.data x) rest s u ∧ u.v = s.v ∧ u.s = s.s ∧ u.cf = s.cf ∧ u.run = s.run ∧
      (u.unwrittenMark = true ↔ s.unwrittenMark = true ∨ written = false) ∧
      (written = false → strictStep s = .fault .unwrittenRead) := by
  have hstep := step_read_accepted hb hh ht hx
  rw [hnote] at hstep
  refine ⟨_, hstep, ⟨rfl, rfl, rfl, rfl, rfl, rfl, rfl⟩, rfl, rfl, rfl, rfl, by simp, fun hw => ?_⟩
  exact strictStep_of_unwrittenMark hstep (by simp [hw])

/-- Settles O6: the offset is that of limb `j` in the window map, and a write of a limb replaces that limb alone. -/
theorem limbWindowAccess : Obligations.LimbWindowAccess := by
  intro s r j rest hj hb
  have hat := accessTarget_limb r hj
  refine ⟨fun v hh => ?_, fun hh => step_read_noting_writtenBit hb hh hat rfl rfl⟩
  have limb {i : Nat} (hi : i < s.width.limbs) := State.limbOf_vreg_setLimb s r j v hi
  have written (q : Reg) (i : Nat) := State.vWritten_setLimb s r q i j v
  refine ⟨_, step_write_accepted hb hh hat rfl, ⟨State.width_setLimb s r j v, rfl, rfl, rfl, rfl, rfl, rfl⟩,
    ?_, ?_, ?_, ?_, fun _ _ => ⟨rfl, rfl⟩, rfl, rfl, rfl⟩
  · exact (limb hj).trans (if_pos rfl)
  · exact (written r j).trans (if_pos ⟨rfl, rfl, hj⟩)
  · exact fun i hi hij => ⟨(limb hi).trans (if_neg hij), (written r i).trans (if_neg fun ⟨_, h, _⟩ => hij h)⟩
  · intro q hq
    have hqr : q ≠ r := by simpa using hq
    exact ⟨(State.vreg_setLimb s r q j v).trans (if_neg hqr),
      fun i => (written q i).trans (if_neg fun ⟨h, _⟩ => hqr h)⟩

/-- Settles O7: the offset is that of S[r] in the window map, and the write sets S[r] alone. -/
theorem sRegisterWindowAccess : Obligations.SRegisterWindowAccess := by
  intro s r rest hb
  have hat := accessTarget_sreg s.width r
  refine ⟨fun v hh => ?_, fun hh => step_read_noting_writtenBit hb hh hat rfl rfl⟩
  refine ⟨_, step_write_accepted hb hh hat rfl, ⟨rfl, rfl, rfl, rfl, rfl, rfl, rfl⟩,
    ?_, ?_, fun _ _ => ⟨rfl, fun _ => rfl⟩, ?_, rfl, rfl, rfl⟩
  · exact (State.sreg_setS s r r v).trans (if_pos rfl)
  · exact (State.sWritten_setS s r r v).trans (if_pos rfl)
  · intro q hq
    have hqr : q ≠ r := by simpa using hq
    exact ⟨(State.sreg_setS s r q v).trans (if_neg hqr), (State.sWritten_setS s r q v).trans (if_neg hqr)⟩

/-! ### The window map read backwards -/

/-- The offset at which a register of the window stands (R61). -/
def Target.offset : Target → Nat
  | .vLimb r j => 0x80 * r.val + 8 * j
  | .sReg r => 0x800 + 8 * r.val
  | .cmd => 0x880
  | .cr => 0x888
  | .fcmd => 0x890
  | .id => 0x898

/-- An access that reaches a register is one of 8 bytes at its offset (R61, R65). -/
theorem eq_of_accessTarget {w : Width} {off size : Nat} {t : Target} (h : accessTarget w off size = some t) :
    off = t.offset ∧ size = 8 := by
  unfold accessTarget windowMap at h
  split at h
  next ha =>
    obtain ⟨hsize, halign⟩ := ha
    refine ⟨?_, hsize⟩
    split_ifs at h <;> cases h <;> simp only [Target.offset, slotReg] <;> omega
  · cases h

/-- Where an access of 8 bytes at a register's offset reaches it, no other access does. -/
theorem accessTarget_eq_some_iff {w : Width} {off size : Nat} {t : Target} (h : accessTarget w t.offset 8 = some t) :
    accessTarget w off size = some t ↔ off = t.offset ∧ size = 8 :=
  ⟨eq_of_accessTarget, by rintro ⟨rfl, rfl⟩; exact h⟩

/-- An access reaches no register for its size, its alignment, or a reserved offset (R61, R65). -/
theorem accessTarget_eq_none_iff {w : Width} {off size : Nat} :
    accessTarget w off size = none ↔
      size ≠ 8 ∨ off % 8 ≠ 0 ∨ 0x8A0 ≤ off ∨ (w = .w512 ∧ off < 0x800 ∧ 0x40 ≤ off % 0x80) := by
  have hlimbs : (w = .w512 ∧ w.limbs = 8) ∨ (w ≠ .w512 ∧ w.limbs = 16) := by cases w <;> simp [Width.limbs]
  unfold accessTarget windowMap
  obtain ⟨hw, hl⟩ | ⟨hw, hl⟩ := hlimbs
  · split_ifs <;> simp [hw] <;> omega
  · split_ifs <;> simp [hw] <;> omega

/-! ### What is refused -/

/-- A read is refused that reaches no register, or CMD, or while BUSY any other than CR (R66). -/
theorem isRefused_read_iff {s : State} {off size : Nat} :
    IsRefused s (.read off size) ↔ accessTarget s.width off size = none ∨ accessTarget s.width off size = some .cmd ∨
      (s.busy = true ∧ accessTarget s.width off size ≠ some .cr) := by
  simp only [IsRefused, accessTarget_eq_none_iff, ne_eq,
    accessTarget_eq_some_iff (t := .cmd) (accessTarget_cmd _), accessTarget_eq_some_iff (t := .cr) (accessTarget_cr _),
    Target.offset]
  constructor
  · rintro ⟨off, size, he | ⟨v, he⟩, h⟩
    · cases he
      simpa [or_assoc] using h
    · cases he
  · intro h
    exact ⟨off, size, .inl rfl, by simpa [or_assoc] using h⟩

/-- A write is refused that reaches no register, or a read-only one, and while BUSY every write (R66, R350). -/
theorem isRefused_write_iff {s : State} {off size : Nat} {v : BitVec 64} :
    IsRefused s (.write off size v) ↔ accessTarget s.width off size = none ∨
      (accessTarget s.width off size = some .fcmd ∨ accessTarget s.width off size = some .id) ∨ s.busy = true := by
  simp only [IsRefused, accessTarget_eq_none_iff,
    accessTarget_eq_some_iff (t := .fcmd) (accessTarget_fcmd _), accessTarget_eq_some_iff (t := .id) (accessTarget_id _),
    Target.offset]
  constructor
  · rintro ⟨off, size, he | ⟨v, he⟩, h⟩
    · cases he
    · cases he
      simpa [or_assoc, exists_or] using h
  · intro h
    exact ⟨off, size, .inr ⟨v, rfl⟩, by simpa [or_assoc, exists_or] using h⟩

theorem not_isRefused_reset (s : State) : ¬ IsRefused s .reset := by
  rintro ⟨off, size, he | ⟨v, he⟩, -⟩ <;> cases he

theorem hostRead_of_isRefused {s : State} {off size : Nat} (h : IsRefused s (.read off size)) :
    s.hostRead off size = s.refuse := by
  obtain hn | hcmd | ⟨hb, hcr⟩ := isRefused_read_iff.1 h
  · exact hostRead_refused hn
  · simp [State.hostRead, hcmd, State.windowValue]
  · cases ht : accessTarget s.width off size with
    | none => exact hostRead_refused ht
    | some t =>
      have hne : t ≠ .cr := fun e => hcr (e ▸ ht)
      simp [State.hostRead, ht, hb, hne]

theorem hostRead_of_not_isRefused {s : State} {off size : Nat} (h : ¬ IsRefused s (.read off size)) :
    ∃ t x, accessTarget s.width off size = some t ∧ s.windowValue t = some x ∧
      s.hostRead off size = (s.noteHostRead t).answerRead x := by
  simp only [isRefused_read_iff, not_or] at h
  obtain ⟨hn, hcmd, hbusy⟩ := h
  obtain ⟨t, ht⟩ := Option.ne_none_iff_exists'.1 hn
  have hx : ∃ x, s.windowValue t = some x := by
    cases t with
    | cmd => exact absurd ht hcmd
    | vLimb r j | sReg r | cr | fcmd | id => exact ⟨_, rfl⟩
  obtain ⟨x, hx⟩ := hx
  have hcr : ¬ (s.busy = true ∧ t ≠ .cr) := by simpa [ht] using hbusy
  exact ⟨t, x, ht, hx, hostRead_accepted ht hcr hx⟩

theorem hostWrite_of_isRefused {s : State} {off size : Nat} {v : BitVec 64} (h : IsRefused s (.write off size v)) :
    s.hostWrite off size v = s.refuse := by
  obtain hn | (ht | ht) | hb := isRefused_write_iff.1 h
  · exact hostWrite_refused hn
  · simp [State.hostWrite, ht, State.writeTarget]
  · simp [State.hostWrite, ht, State.writeTarget]
  · exact hostWrite_busy hb

/-- What an accepted write does to its register leaves the REFUSED mark. -/
theorem writeTarget_refusedMark {s s' : State} {v : BitVec 64} {t : Target} (h : s.writeTarget v t = some s') :
    s'.refusedMark = s.refusedMark := by
  cases t with
  | vLimb r j | sReg r | cr =>
    cases h
    rfl
  | cmd =>
    rw [State.writeTarget] at h
    split at h <;> cases h <;> rfl
  | fcmd | id => cases h

theorem hostWrite_of_not_isRefused {s : State} {off size : Nat} {v : BitVec 64}
    (h : ¬ IsRefused s (.write off size v)) :
    ∃ t s', s.writeTarget v t = some s' ∧ s.hostWrite off size v = s'.answer .done := by
  simp only [isRefused_write_iff, not_or, Bool.not_eq_true] at h
  obtain ⟨hn, ⟨hfcmd, hid⟩, hb⟩ := h
  obtain ⟨t, ht⟩ := Option.ne_none_iff_exists'.1 hn
  have hs' : ∃ s', s.writeTarget v t = some s' := by
    cases t with
    | fcmd => exact absurd ht hfcmd
    | id => exact absurd ht hid
    | vLimb r j | sReg r | cr => exact ⟨_, rfl⟩
    | cmd =>
      rw [State.writeTarget]
      split <;> exact ⟨_, rfl⟩
  obtain ⟨s', hs'⟩ := hs'
  exact ⟨t, s', hs', hostWrite_accepted ht hb hs'⟩

/-- A refused access answers P_BUSERR, sets the REFUSED mark and does nothing else (R66). -/
theorem serve_of_isRefused {s : State} {e : HostEvent} (h : IsRefused s e) : s.serve e = s.refuse := by
  cases e with
  | read off size => exact hostRead_of_isRefused h
  | write off size v => exact hostWrite_of_isRefused h
  | reset => exact absurd h (not_isRefused_reset s)

theorem serve_refusedMark_of_not_isRefused {s : State} {e : HostEvent} (h : ¬ IsRefused s e) :
    (s.serve e).refusedMark = s.refusedMark := by
  cases e with
  | read off size =>
    obtain ⟨t, x, -, -, hread⟩ := hostRead_of_not_isRefused h
    obtain ⟨m, hnote⟩ := noteHostRead_eq s t
    rw [State.serve, hread, hnote]
    rfl
  | write off size v =>
    obtain ⟨t, s', hs', hwrite⟩ := hostWrite_of_not_isRefused h
    rw [State.serve, hwrite, State.answer_refusedMark]
    exact writeTarget_refusedMark hs'
  | reset => rfl

/-! ### The host's step -/

/-- A refused access is no read of CR, so it uses up no poll. -/
theorem not_isCrRead_of_isRefused {s : State} {e : HostEvent} (h : IsRefused s e) : isCrRead s.width e = false := by
  cases e with
  | read off size =>
    obtain hn | hcmd | ⟨-, hcr⟩ := isRefused_read_iff.1 h
    · simp [isCrRead, hn]
    · simp [isCrRead, hcmd]
    · simpa [isCrRead] using hcr
  | write off size v => rfl
  | reset => rfl

/-- Where the host moves, its oldest event is served; only a CR read while BUSY sets the run state too: it uses up a poll. -/
theorem step_of_hostMoves {s : State} {e : HostEvent} {rest : List HostEvent} (hm : HostMoves s)
    (hh : s.host = e :: rest) :
    step s = .next ({ s with host := rest }.serve e) ∨
      (s.busy = true ∧ isCrRead s.width e = true ∧
        ∃ run, step s = .next { { s with host := rest }.serve e with run := run }) := by
  obtain hb | ⟨c, k, hr⟩ := hostMoves_cases hm
  · exact .inl (step_of_host_cons hb hh)
  · have hstep := step_of_busy_cons hr hh
    unfold busyTurn at hstep
    split at hstep
    next hcr => exact .inr ⟨busy_of_run_busy hr, hcr, _, hstep⟩
    · exact .inl hstep

/-- Settles O9: the listed accesses are those `serve` refuses, and the step serves the event. -/
theorem refusedAccessesAreThoseListed : Obligations.RefusedAccessesAreThoseListed := by
  intro s e rest hh hm
  have hserved := step_of_hostMoves hm hh
  constructor
  · intro hr
    have hrefuse : { s with host := rest }.serve e = { s with host := rest }.refuse := serve_of_isRefused hr
    have hstep : step s = .next { s with host := rest }.refuse := by
      obtain h | ⟨-, hcr, -⟩ := hserved
      · rw [h, hrefuse]
      · cases (not_isCrRead_of_isRefused hr).symm.trans hcr
    exact ⟨hstep, fun hu => strictStep_of_refusedMark hstep hu rfl⟩
  · intro hr
    have hmark : ({ s with host := rest }.serve e).refusedMark = s.refusedMark := serve_refusedMark_of_not_isRefused hr
    obtain h | ⟨-, -, run, h⟩ := hserved
    · exact ⟨_, h, hmark⟩
    · exact ⟨_, h, hmark⟩

theorem noteHostRead_answers (s : State) (t : Target) : (s.noteHostRead t).answers = s.answers := by cases t <;> rfl

/-- The answer to a read depends on V, S, CF, the run state and FCMD alone. -/
theorem hostRead_answers_congr {s s' : State} (hv : s'.v = s.v) (hs : s'.s = s.s) (hcf : s'.cf = s.cf)
    (hrun : s'.run = s.run) (hfcmd : s'.fcmd = s.fcmd) (off size : Nat) :
    ∃ a, (s.hostRead off size).answers = a :: s.answers ∧ (s'.hostRead off size).answers = a :: s'.answers := by
  have hwidth : s'.width = s.width := congrArg VFile.width hv
  have hbusy : s'.busy = s.busy := by simp only [State.busy, hrun]
  have hvalue (t : Target) : s'.windowValue t = s.windowValue t := by
    cases t <;> simp only [State.windowValue, State.vreg, State.sreg, State.crValue, State.busy, State.flt, State.fc,
      State.idValue, State.bits, hv, hs, hcf, hrun, hfcmd, hwidth]
  have hrefused : IsRefused s' (.read off size) ↔ IsRefused s (.read off size) := by
    rw [isRefused_read_iff, isRefused_read_iff, hwidth, hbusy]
  by_cases h : IsRefused s (.read off size)
  · exact ⟨.busError, by rw [hostRead_of_isRefused h, State.refuse_answers],
      by rw [hostRead_of_isRefused (hrefused.2 h), State.refuse_answers]⟩
  · obtain ⟨t, x, ht, hx, hread⟩ := hostRead_of_not_isRefused h
    obtain ⟨t', x', ht', hx', hread'⟩ := hostRead_of_not_isRefused (mt hrefused.1 h)
    obtain rfl : t' = t := by simpa [hwidth, ht] using ht'.symm
    obtain rfl : x' = x := by simpa [hvalue, hx] using hx'.symm
    exact ⟨.data x', by rw [hread, State.answerRead_answers, noteHostRead_answers],
      by rw [hread', State.answerRead_answers, noteHostRead_answers]⟩

theorem hostRead_host (s : State) (off size : Nat) : (s.hostRead off size).host = s.host := by
  obtain h | ⟨t, v, h⟩ := hostRead_cases s off size
  · rw [h, State.refuse_host]
  · rw [h, State.answerRead_host, noteHostRead_host]

/-- Settles O10: `hostRead_frame` is what a read leaves, and the read made again finds what its answer depends on as it was. -/
theorem readsChangeNothing : Obligations.ReadsChangeNothing := by
  intro s off size rest hh hm
  obtain ⟨hv, hs, hcf, hrun, hfcmd⟩ := hostRead_frame { s with host := rest } off size
  obtain hstep | ⟨hb, -, run, hstep⟩ := step_of_hostMoves hm hh
  · refine ⟨_, hstep, hv, hs, hcf, hfcmd, fun hb => ⟨hrun, ?_⟩⟩
    rintro rest' rfl
    obtain ⟨a, ha, ha'⟩ := hostRead_answers_congr (s := { s with host := .read off size :: rest' })
      (s' := { { s with host := .read off size :: rest' }.hostRead off size with host := rest' })
      hv hs hcf hrun hfcmd off size
    have hidle : ({ s with host := .read off size :: rest' }.hostRead off size).busy = false := by
      simpa only [State.busy, hrun] using hb
    exact ⟨_, a, step_of_host_cons hidle (hostRead_host ..), ha'.trans (congrArg (List.cons a) ha)⟩
  · exact ⟨_, hstep, hv, hs, hcf, hfcmd, fun hn => by cases hn.symm.trans hb⟩

end Sys2Proof.Machine
end

section
/-! SUPPORT. O16 to O23 and O41. What the decoder does is said once, in the conditions of R100 (`decode_cases`);
the round trips, the order of rejection and the reserved OP values follow from it and from the packed word of R91. -/

namespace Sys2Proof.Machine

open Sys2Proof.Safety

/-! ### The conditions of R100 on a CMD value -/

theorem bitSlice_zero (n k : Nat) : bitSlice n 0 k = n % 2 ^ k := by simp [bitSlice]

/-- No two rows of the map share an OP value, so a row is found by its own (R97). -/
theorem byte_eq_iff_ofByte {op : Opcode} {b : Nat} : op.byte = b ↔ Opcode.ofByte b = some op :=
  ⟨fun h => h ▸ op.ofByte_byte, Opcode.byte_of_ofByte⟩

theorem forall_byte_ne_iff {b : Nat} : (∀ op : Opcode, op.byte ≠ b) ↔ Opcode.ofByte b = none := by
  simp only [ne_eq, byte_eq_iff_ofByte, Option.eq_none_iff_forall_ne_some]

section
variable {w : Width} {v : BitVec 64}

theorem illegalBecause_cmdHighBits_iff : illegalBecause w v .cmdHighBits ↔ bitSlice v.toNat 32 32 ≠ 0 := by
  have := v.isLt
  simp only [illegalBecause, bitSlice]
  omega

theorem illegalBecause_reservedBits_iff : illegalBecause w v .reservedBits ↔ bitSlice v.toNat 28 4 ≠ 0 := .rfl

theorem illegalBecause_reservedOpcode_iff :
    illegalBecause w v .reservedOpcode ↔ Opcode.ofByte (bitSlice v.toNat 0 8) = none := by
  rw [bitSlice_zero]
  exact forall_byte_ne_iff

/-- Where the OP value is a row's, conditions 4 to 6 of R100 are about that row. -/
theorem illegalBecause_iff_of_ofByte {op : Opcode} (h : Opcode.ofByte (bitSlice v.toNat 0 8) = some op) :
    (illegalBecause w v .notAtThisWidth ↔ op.legalAt w = false) ∧
    (illegalBecause w v .unusedField ↔ op.format.unusedZero (fieldsOf v.toNat) = false) ∧
    (illegalBecause w v .sameDestinations ↔
      op.format.usesRe = true ∧ (fieldsOf v.toNat).rd = (fieldsOf v.toNat).re) := by
  have hrow (op' : Opcode) : op'.byte = v.toNat % 2 ^ 8 ↔ op = op' := by
    rw [← bitSlice_zero, byte_eq_iff_ofByte, h, Option.some.injEq]
  simp only [illegalBecause, hrow, exists_eq_left', Fin.ext_iff]
  exact ⟨trivial, trivial, .rfl⟩

end

theorem forall_illegal_iff {p : Illegal → Prop} :
    (∀ e, p e) ↔ p .cmdHighBits ∧ p .reservedBits ∧ p .reservedOpcode ∧ p .notAtThisWidth ∧ p .unusedField ∧
      p .sameDestinations :=
  ⟨fun h => ⟨h _, h _, h _, h _, h _, h _⟩, fun ⟨h1, h2, h3, h4, h5, h6⟩ e => by cases e <;> assumption⟩

/-- The condition holds, and none before it in the order of R100. -/
def FirstIllegal (w : Width) (v : BitVec 64) (e : Illegal) : Prop :=
  illegalBecause w v e ∧ ∀ e', illegalRank e' < illegalRank e → ¬ illegalBecause w v e'

theorem illegalRank_injective : Function.Injective illegalRank := by
  simp [Function.Injective, forall_illegal_iff, illegalRank]

/-- At most one condition is the first. -/
theorem FirstIllegal.unique {w : Width} {v : BitVec 64} {e e' : Illegal} (h : FirstIllegal w v e)
    (h' : FirstIllegal w v e') : e = e' := by
  obtain hlt | heq | hlt := Nat.lt_trichotomy (illegalRank e) (illegalRank e')
  · exact absurd h.1 (h'.2 e hlt)
  · exact illegalRank_injective heq
  · exact absurd h'.1 (h.2 e' hlt)

/-! ### What the decoder does -/

/-- The register fields lie in the low 32 bits. -/
theorem fieldsOf_bitSlice (n : Nat) : fieldsOf (bitSlice n 0 32) = fieldsOf n := by
  simp [fieldsOf, regField, bitSlice_bitSlice]

/-- The decoder rejects by the first condition of R100 that holds, or none holds and it reads the command of the OP value's
row from the fields. -/
theorem decode_cases (w : Width) (v : BitVec 64) :
    (∃ e, decode w v = .error e ∧ FirstIllegal w v e) ∨
    (∃ op, decode w v = .ok (op.instr (fieldsOf v.toNat)) ∧ Opcode.ofByte (bitSlice v.toNat 0 8) = some op ∧
      ∀ e, ¬ illegalBecause w v e) := by
  have high := illegalBecause_cmdHighBits_iff (w := w) (v := v)
  have bits := illegalBecause_reservedBits_iff (w := w) (v := v)
  have row := illegalBecause_reservedOpcode_iff (w := w) (v := v)
  simp only [decode, fieldsOf_bitSlice, bitSlice_bitSlice, Nat.reduceAdd, Nat.reduceLeDiff, FirstIllegal,
    forall_illegal_iff]
  split
  next => exact .inl ⟨_, rfl, by simp [illegalRank, *]⟩
  next =>
  split
  next => exact .inl ⟨_, rfl, by simp [illegalRank, *]⟩
  next =>
  split
  next => exact .inl ⟨_, rfl, by simp [illegalRank, *]⟩
  next op hop =>
  obtain ⟨width, unused, same⟩ := illegalBecause_iff_of_ofByte (w := w) hop
  split
  next => exact .inl ⟨_, rfl, by simp [illegalRank, *]⟩
  next =>
  split
  next => exact .inl ⟨_, rfl, by simp [illegalRank, *]⟩
  next =>
  split
  next => exact .inl ⟨_, rfl, by simp [illegalRank, *]⟩
  next => exact .inr ⟨op, rfl, hop, by simp [*]⟩

/-- Settles O18: `decode_cases` names the first condition or excludes all, and only one condition is the first. -/
theorem decoderRejectsByTheFirstCondition : Obligations.DecoderRejectsByTheFirstCondition := by
  intro w v
  obtain ⟨e, hd, hfirst⟩ | ⟨op, hd, -, hnone⟩ := decode_cases w v
  · refine ⟨fun e' => ⟨?_, fun h' => ?_⟩, ?_, fun hnone => absurd hfirst.1 (hnone e)⟩
    · intro h
      cases hd.symm.trans h
      exact hfirst
    · rw [hd, hfirst.unique h']
    · rintro ⟨i, h⟩
      cases hd.symm.trans h
  · refine ⟨fun e' => ⟨fun h => ?_, fun h' => absurd h'.1 (hnone e')⟩, fun _ => hnone, fun _ => ⟨_, hd⟩⟩
    cases hd.symm.trans h

/-! ### The two round trips -/

/-- A command is made again from its opcode and fields, which fit its format (R92). -/
theorem instr_opcode_fields (i : Instr) : Laws.Rebuild.Statement i := by
  cases i <;> exact ⟨rfl, rfl⟩

theorem opcode_instr (op : Opcode) (f : Fields) : (op.instr f).opcode = op := by cases op <;> rfl

/-- The fields with those the format does not use set to 0. -/
def usedFields (fm : Format) (f : Fields) : Fields where
  rd := if fm.usesRd then f.rd else 0
  re := if fm.usesRe then f.re else 0
  ra := if fm.usesRa then f.ra else 0
  rb := if fm.usesRb then f.rb else 0
  rc := if fm.usesRc then f.rc else 0

theorem fields_instr (op : Opcode) (f : Fields) : (op.instr f).fields = usedFields op.format f := by cases op <;> rfl

theorem usedFields_eq_self_iff (fm : Format) (f : Fields) : usedFields fm f = f ↔ fm.unusedZero f = true := by
  obtain ⟨rd, re, ra, rb, rc⟩ := f
  simp [usedFields, Format.unusedZero, or_iff_not_imp_left, and_assoc, eq_comm (a := (0 : Reg))]

/-- A number of 28 bits is the packed word of its OP value and its fields (R91). -/
theorem packWord_fieldsOf {n : Nat} (h : n < 2 ^ 28) : packWord (bitSlice n 0 8) (fieldsOf n) = n := by
  simp only [packWord, fieldsOf, regField, bitSlice]
  omega

theorem encodeCmd_toNat (i : Instr) : (encodeCmd i).toNat = packWord i.opcode.byte i.fields := by
  have := packWord_lt _ i.opcode.byte_lt i.fields
  simp only [encodeCmd, encode, BitVec.toNat_setWidth, BitVec.toNat_ofNat]
  omega

/-- Conditions 1 and 2 of R100 leave a CMD value 28 bits. -/
theorem toNat_lt_of_not_illegalBecause {w : Width} {v : BitVec 64} (h : ∀ e, ¬ illegalBecause w v e) :
    v.toNat < 2 ^ 28 := by
  have h1 := h .cmdHighBits
  have h2 := h .reservedBits
  simp only [illegalBecause] at h1 h2
  omega

/-- Settles O17: what decodes is made of the value's own row and fields, and these pack to the value again. -/
theorem encodeOfDecode : Obligations.EncodeOfDecode := by
  intro w v i h
  refine ⟨wellFormed_of_decode h, ?_⟩
  obtain ⟨e, hd, -⟩ | ⟨op, hd, hop, hnone⟩ := decode_cases w v
  · cases hd.symm.trans h
  · cases hd.symm.trans h
    obtain ⟨-, hunused, -⟩ := illegalBecause_iff_of_ofByte (w := w) hop
    have hzero : op.format.unusedZero (fieldsOf v.toNat) = true := by simpa [hunused] using hnone .unusedField
    apply BitVec.eq_of_toNat_eq
    rw [encodeCmd_toNat, opcode_instr, fields_instr, (usedFields_eq_self_iff _ _).2 hzero, Opcode.byte_of_ofByte hop,
      packWord_fieldsOf (toNat_lt_of_not_illegalBecause hnone)]

/-- The CMD value of a command gives back the command's opcode and fields (R91, R97). -/
theorem opcode_fields_of_encodeCmd (i : Instr) :
    Opcode.ofByte (bitSlice (encodeCmd i).toNat 0 8) = some i.opcode ∧ fieldsOf (encodeCmd i).toNat = i.fields := by
  have hbyte := i.opcode.byte_lt
  rw [encodeCmd_toNat, opByte_packWord _ hbyte]
  exact ⟨i.opcode.ofByte_byte, fieldsOf_packWord _ hbyte _⟩

/-- A command is well-formed when its opcode is legal and its two destinations, if it has two, differ (R96, R100). -/
theorem wellFormed_iff {w : Width} {i : Instr} :
    i.wellFormed w = true ↔
      i.opcode.legalAt w = true ∧ ¬ (i.opcode.format.usesRe = true ∧ i.fields.rd = i.fields.re) := by
  obtain ⟨hi, -⟩ := instr_opcode_fields i
  rw [← congrArg (Instr.wellFormed w) hi, Instr.wellFormed, legalAt_instr, distinctDestinations_instr]
  simp [imp_iff_not_or]

/-- No condition of R100 holds of the CMD value of a well-formed command. -/
theorem not_illegalBecause_encodeCmd {w : Width} {i : Instr} (h : i.wellFormed w = true) :
    ∀ e, ¬ illegalBecause w (encodeCmd i) e := by
  obtain ⟨hop, hfields⟩ := opcode_fields_of_encodeCmd i
  obtain ⟨hwidth, hunused, hsame⟩ := illegalBecause_iff_of_ofByte (w := w) hop
  obtain ⟨hlegal, hdistinct⟩ := wellFormed_iff.1 h
  obtain ⟨-, hzero⟩ := instr_opcode_fields i
  have hlt : (encodeCmd i).toNat < 2 ^ 28 := encodeCmd_toNat i ▸ packWord_lt _ i.opcode.byte_lt i.fields
  refine forall_illegal_iff.2 ⟨?_, ?_, ?_, ?_, ?_, ?_⟩
  · simp only [illegalBecause]
    omega
  · simp only [illegalBecause]
    omega
  · simp [illegalBecause_reservedOpcode_iff, hop]
  · simp [hwidth, hlegal]
  · simp [hunused, hfields, hzero]
  · simpa only [hsame, hfields] using hdistinct

/-- Settles O16: no condition of R100 holds of the command's CMD value, whose row and fields are the command's. -/
theorem decodeOfEncode : Obligations.DecodeOfEncode := by
  intro w i h
  have hnone := not_illegalBecause_encodeCmd h
  obtain ⟨hop, hfields⟩ := opcode_fields_of_encodeCmd i
  obtain ⟨hi, -⟩ := instr_opcode_fields i
  obtain ⟨e, -, hfirst⟩ | ⟨op, hd, hop', -⟩ := decode_cases w (encodeCmd i)
  · exact absurd hfirst.1 (hnone e)
  · cases hop.symm.trans hop'
    rw [hd, hfields, hi]

/-! ### Reserved OP values -/

/-- The OP values of each family run on from the start of its row of the map (R97). -/
theorem map_byte_all : Opcode.all.map Opcode.byte =
    List.range' 0x00 3 ++ List.range' 0x10 7 ++ List.range' 0x20 5 ++ List.range' 0x30 9 ++ List.range' 0x40 6 ++
      List.range' 0x50 3 ++ List.range' 0x60 6 ++ List.range' 0x70 2 ++ List.range' 0x80 7 := rfl

/-- Of the OP values of one byte, those that no opcode has (R101). -/
theorem ofByte_eq_none_iff {b : Nat} (hb : b < 256) : Opcode.ofByte b = none ↔
    (0x03 ≤ b ∧ b ≤ 0x0F) ∨ (0x17 ≤ b ∧ b ≤ 0x1F) ∨ (0x25 ≤ b ∧ b ≤ 0x2F) ∨ (0x39 ≤ b ∧ b ≤ 0x3F) ∨
    (0x46 ≤ b ∧ b ≤ 0x4F) ∨ (0x53 ≤ b ∧ b ≤ 0x5F) ∨ (0x66 ≤ b ∧ b ≤ 0x6F) ∨ (0x72 ≤ b ∧ b ≤ 0x7F) ∨ 0x87 ≤ b := by
  have hmem : Opcode.ofByte b = none ↔ b ∉ Opcode.all.map Opcode.byte := by simp [Opcode.ofByte]
  rw [hmem, map_byte_all]
  simp only [List.mem_append, List.mem_range'_1]
  omega

/-- Settles O20: the map's gaps are the listed ranges, a gap is condition 3 of R100, and NOP's one CMD value is 0. -/
theorem reservedOpcodesAreIllegal : Obligations.ReservedOpcodesAreIllegal := by
  intro w v
  have hbyte : v.toNat % 2 ^ 8 < 256 := Nat.mod_lt _ (by decide)
  refine ⟨forall_byte_ne_iff.trans (ofByte_eq_none_iff hbyte), fun h => ?_, fun h => ?_, fun h => ?_⟩
  · obtain ⟨e, hd, -⟩ | ⟨op, -, -, hnone⟩ := decode_cases w v
    · exact ⟨e, hd⟩
    · exact absurd h (hnone .reservedOpcode)
  · exact (encodeOfDecode w v .nop h).2.symm
  · exact h ▸ decodeOfEncode w .nop rfl

/-! ### The decoder by masks -/

/-- AND of two numbers, each cut at bit `k`, is the AND of the parts. -/
theorem add_and_add {k x m : Nat} (hx : x < 2 ^ k) (hm : m < 2 ^ k) (y n : Nat) :
    (x + 2 ^ k * y) &&& (m + 2 ^ k * n) = (x &&& m) + 2 ^ k * (y &&& n) := by
  have hxm : x &&& m < 2 ^ k := Nat.lt_of_le_of_lt Nat.and_le_left hx
  apply Nat.eq_of_testBit_eq
  intro i
  simp only [Nat.testBit_and, Nat.add_comm _ (2 ^ k * _), Nat.testBit_two_pow_mul_add _ hx,
    Nat.testBit_two_pow_mul_add _ hm, Nat.testBit_two_pow_mul_add _ hxm]
  split <;> rfl

/-- The bits of a register field that a mask fixes: all of a field that is not used, none of one that is (R92). -/
def fieldMask (used : Bool) : Nat := if used then 0 else 0xF

theorem fieldMask_lt (used : Bool) : fieldMask used < 2 ^ 4 := by cases used <;> decide

/-- The fields with those the format uses set to 0. -/
def unusedFields (fm : Format) (f : Fields) : Fields where
  rd := if fm.usesRd then 0 else f.rd
  re := if fm.usesRe then 0 else f.re
  ra := if fm.usesRa then 0 else f.ra
  rb := if fm.usesRb then 0 else f.rb
  rc := if fm.usesRc then 0 else f.rc

theorem val_and_fieldMask (r : Reg) (used : Bool) : r.val &&& fieldMask used = (if used then 0 else r : Reg).val := by
  cases used with
  | true => exact Nat.and_zero _
  | false => exact (Nat.and_two_pow_sub_one_eq_mod r.val 4).trans (Nat.mod_eq_of_lt r.isLt)

/-- A packed word cut at each field, bits [31:28] being 0. -/
theorem packWord_eq (b : Nat) (f : Fields) : packWord b f =
    b + 2 ^ 8 * (f.rd.val + 2 ^ 4 * (f.re.val + 2 ^ 4 * (f.ra.val +
      2 ^ 4 * (f.rb.val + 2 ^ 4 * (f.rc.val + 2 ^ 4 * 0))))) := by
  simp only [packWord]
  omega

/-- A mask fixes the OP value, the fields the format does not use, and bits [31:28] (R92). -/
theorem mask_toNat (fm : Format) : fm.mask.toNat =
    0xFF + 2 ^ 8 * (fieldMask fm.usesRd + 2 ^ 4 * (fieldMask fm.usesRe + 2 ^ 4 * (fieldMask fm.usesRa +
      2 ^ 4 * (fieldMask fm.usesRb + 2 ^ 4 * (fieldMask fm.usesRc + 2 ^ 4 * 0xF))))) := by
  cases fm <;> rfl

/-- A mask keeps the OP value and the fields the format does not use. -/
theorem packWord_and_mask {b : Nat} (hb : b < 2 ^ 8) (fm : Format) (f : Fields) :
    packWord b f &&& fm.mask.toNat = packWord b (unusedFields fm f) := by
  have hop : b &&& 0xFF = b := (Nat.and_two_pow_sub_one_eq_mod b 8).trans (Nat.mod_eq_of_lt hb)
  rw [mask_toNat, packWord_eq, packWord_eq, add_and_add hb (by decide), hop]
  simp only [add_and_add (Fin.isLt _) (fieldMask_lt _), val_and_fieldMask, Nat.zero_and]
  rfl

theorem packWord_inj {b b' : Nat} {f f' : Fields} (hb : b < 2 ^ 8) (hb' : b' < 2 ^ 8) :
    packWord b f = packWord b' f' ↔ b = b' ∧ f = f' := by
  constructor
  · intro h
    have hop := congrArg (bitSlice · 0 8) h
    have hfields := congrArg fieldsOf h
    simp only [opByte_packWord _ hb, opByte_packWord _ hb'] at hop
    rw [fieldsOf_packWord _ hb, fieldsOf_packWord _ hb'] at hfields
    exact ⟨hop, hfields⟩
  · rintro ⟨rfl, rfl⟩
    rfl

theorem unusedFields_eq_zero_iff (fm : Format) (f : Fields) :
    unusedFields fm f = ⟨0, 0, 0, 0, 0⟩ ↔ fm.unusedZero f = true := by
  simp [unusedFields, Format.unusedZero, or_iff_not_imp_left, and_assoc]

theorem matchWord_toNat (op : Opcode) : op.matchWord.toNat = op.byte := by cases op <;> rfl

/-- On a word with bits [31:28] zero and a row's OP value, the mask test is the test of the unused fields (R92, R102). -/
theorem selectedBy_eq_unusedZero {op : Opcode} {c : CommandWord} (hc : bitSlice c.toNat 28 4 = 0)
    (hop : Opcode.ofByte (bitSlice c.toNat 0 8) = some op) :
    op.selectedBy c = op.format.unusedZero (fieldsOf c.toNat) := by
  have hlt : c.toNat < 2 ^ 28 := by
    have := c.isLt
    simp only [bitSlice] at hc
    omega
  have hmatch : op.matchWord.toNat = packWord op.byte ⟨0, 0, 0, 0, 0⟩ := matchWord_toNat op
  rw [Bool.eq_iff_iff, Opcode.selectedBy, beq_iff_eq, ← BitVec.toNat_inj, BitVec.toNat_and, hmatch,
    ← packWord_fieldsOf hlt, ← Opcode.byte_of_ofByte hop, packWord_and_mask op.byte_lt,
    packWord_inj op.byte_lt op.byte_lt, unusedFields_eq_zero_iff]
  simp [fieldsOf_packWord _ op.byte_lt]

/-- The row a command word's OP value selects is looked up the same way by both decoders. -/
theorem find?_matchWord (c : CommandWord) :
    Opcode.all.find? (fun op => op.matchWord == (c &&& 0xFF)) = Opcode.ofByte (bitSlice c.toNat 0 8) := by
  have hop : (c &&& 0xFF).toNat = bitSlice c.toNat 0 8 := by
    rw [bitSlice_zero, BitVec.toNat_and]
    exact Nat.and_two_pow_sub_one_eq_mod c.toNat 8
  simp only [Opcode.ofByte, ← hop, ← matchWord_toNat, BitVec.toNat_inj, beq_eq_decide]

/-- A word of `k + m` bits shifted right by `k` is its slice of the `m` high bits. -/
theorem ushiftRight_ne_zero_iff {n : Nat} (x : BitVec n) (k m : Nat) (h : n = k + m) :
    x >>> k ≠ 0 ↔ bitSlice x.toNat k m ≠ 0 := by
  subst h
  have hlt : x.toNat / 2 ^ k < 2 ^ m := Nat.div_lt_of_lt_mul (Nat.pow_add 2 k m ▸ x.isLt)
  rw [ne_eq, ← BitVec.toNat_inj, BitVec.toNat_ushiftRight, Nat.shiftRight_eq_div_pow, bitSlice, Nat.mod_eq_of_lt hlt]
  rfl

/-- Settles O19: test by test the two decoders ask the same of the value. -/
theorem maskDecoderAgrees : Obligations.MaskDecoderAgrees := by
  intro w v
  have hword : (v.setWidth 32 : CommandWord).toNat = bitSlice v.toNat 0 32 := by
    rw [bitSlice_zero, BitVec.toNat_setWidth]
  simp only [decodeByMask, decode, ushiftRight_ne_zero_iff _ 32 32 rfl, ushiftRight_ne_zero_iff _ 28 4 rfl,
    find?_matchWord, hword]
  by_cases h1 : bitSlice v.toNat 32 32 ≠ 0
  · simp [h1]
  by_cases h2 : bitSlice (bitSlice v.toNat 0 32) 28 4 ≠ 0
  · simp [h1, h2]
  cases h3 : Opcode.ofByte (bitSlice (bitSlice v.toNat 0 32) 0 8) with
  | none => simp [h1, h2]
  | some op =>
    have hsel := selectedBy_eq_unusedZero (c := v.setWidth 32) (by simpa [hword] using h2) (by rw [hword, h3])
    simp only [hsel, hword, if_neg h1, if_neg h2]
    split_ifs with h4 h5 h6 h7 h7
    · rfl
    · rfl
    · rfl
    · exact absurd h6 h7
    · exact absurd h7 h6
    · rfl

/-! ### The assembler -/

/-- Operands of the mnemonic's number and classes assemble to the command the mnemonic stands for (R103). -/
theorem assemble_of_classes {m : Mnemonic} {ops : List AsmReg} {i : Instr} (hc : ops.map AsmReg.cls = m.classes)
    (hi : m.expand (ops.map AsmReg.num) = some i) : assemble m ops = .ok i := by
  have hlen : ops.length = m.classes.length := by rw [← hc, List.length_map]
  rw [assemble, if_pos hlen, firstWrongClass_eq_none _ _ hc, hi]

theorem assemble_error_of_classes {m : Mnemonic} {ops : List AsmReg} (hc : ops.map AsmReg.cls ≠ m.classes) :
    ∃ e, assemble m ops = .error e := by
  unfold assemble
  split
  next hlen =>
    obtain ⟨r, hr⟩ := firstWrongClass_isSome _ _ hlen hc
    exact ⟨_, by rw [hr]⟩
  · exact ⟨_, rfl⟩

/-- A command has one class for each operand (R92, R93). -/
theorem length_classes (op : Opcode) (f : Fields) :
    (Opcode.classes op).length = (Format.operands op.format f).length := by
  cases op <;> rfl

theorem place_operands (fm : Format) (f : Fields) :
    Format.place fm (Format.operands fm f) = some (usedFields fm f) := by
  cases fm <;> rfl

/-- A command assembles back from the way it is written. -/
theorem assemble_disassemble (i : Instr) : assemble (.core (disassemble i).1) (disassemble i).2 = .ok i := by
  obtain ⟨hi, hzero⟩ := instr_opcode_fields i
  have hlen := length_classes i.opcode i.fields
  have hcls : (disassemble i).2.map AsmReg.cls = Opcode.classes i.opcode := by
    simpa [disassemble, List.zip, List.map_zipWith] using List.map_fst_zip hlen.le
  have hnum : (disassemble i).2.map AsmReg.num = Format.operands i.opcode.format i.fields := by
    simpa [disassemble, List.zip, List.map_zipWith] using List.map_snd_zip hlen.ge
  refine assemble_of_classes hcls ?_
  rw [hnum]
  simp [disassemble, Mnemonic.expand, place_operands, (usedFields_eq_self_iff _ _).2 hzero, hi]

/-- Settles O22: what is written assembles back, and `assemble` asks for the number and the classes alone. -/
theorem assemblerTakesMatchingOperandsOnly : Obligations.AssemblerTakesMatchingOperandsOnly := by
  refine ⟨assemble_disassemble, fun m ops hc => ?_, fun m ops hc => assemble_error_of_classes hc⟩
  obtain ⟨i, hi⟩ := m.expand_isSome ops (by rw [← hc, List.length_map])
  exact ⟨i, assemble_of_classes hc hi⟩

/-- Settles O23: the three meanings are ends of a command with one destination, at values that need no wrapping. -/
theorem pseudoInstructions : Obligations.PseudoInstructions := by
  intro s d a
  refine ⟨rfl, rfl, rfl, ?_, ?_, ?_⟩
  · obtain ⟨t, ht, hc, hcf, hv⟩ := retireV_completes s d (s.full a ||| s.full a)
    exact ⟨t, ht, hc, hcf, by rw [hv, Nat.or_self, State.full, Nat.mod_eq_of_lt (s.vreg_lt a)]⟩
  · obtain ⟨t, ht, hc, hcf, hv⟩ := retireV_completes s d 0
    exact ⟨t, ht, hc, hcf, by rw [hv, Nat.zero_mod]⟩
  · obtain ⟨t, ht, hc, hcf, hv⟩ := retireS_completes s d (boolResult (s.full a == 0))
    exact ⟨t, ht, hc, hcf, by simp [hv, boolResult, State.full]⟩

/-! ### Terms the decoder never yields -/

/-- The meaning of a term that is not well-formed at W is ILLEGAL_COMMAND (R96, R100; log 9). -/
theorem exec_of_not_wellFormed {i : Instr} {s : State} (h : i.wellFormed s.width = false) :
    exec i s = s.takeFault .illegalCommand := by
  cases i
  case mulx | quoRem | quoRem64 | quoRem128 | quoRem256 | divx =>
    exact if_pos (by simpa [Instr.wellFormed, Instr.legalAt, Instr.distinctDestinations] using h)
  case from512 rd ra =>
    have hw : s.width ≠ .w1024 := by simpa [Instr.wellFormed, Instr.legalAt, Instr.distinctDestinations] using h
    exact if_neg hw
  case quoRem512 rd re ra rb =>
    have hd : s.width = .w1024 → rd = re := by
      simpa [Instr.wellFormed, Instr.legalAt, Instr.distinctDestinations] using h
    by_cases hw : s.width = .w1024
    · exact (if_pos hw).trans (if_pos (hd hw))
    · exact if_neg hw
  all_goals cases h

/-- Settles O41: the fault such a term takes writes nothing. -/
theorem illFormedCommandTakesIllegal : Obligations.IllFormedCommandTakesIllegal := by
  intro i s h
  rw [exec_of_not_wellFormed h]
  exact takeFault_faults s .illegalCommand

/-- Settles O21, word by word at each width. -/
theorem wordsOfTheSpecDecode : Obligations.WordsOfTheSpecDecode := by
  intro w
  cases w <;> decide

end Sys2Proof.Machine
end

section
/-! SUPPORT. O24 to O26. The word of a command is said once, for every command (`isCommand_wordOf`); so is the end of a command whose
result fits W bits (`retireV_completes_of_lt`). -/

namespace Sys2Proof.Machine

open Sys2Proof.Safety

/-! ### The word of a command -/

theorem wordOf_eq_packWord (b : Nat) (f : Fields) : wordOf b f.rd f.re f.ra f.rb f.rc = packWord b f := by
  simp only [wordOf, packWord]
  ring

theorem ofNat_packWord (i : Instr) : BitVec.ofNat 64 (packWord i.opcode.byte i.fields) = encodeCmd i := by
  rw [← encodeCmd_toNat, BitVec.ofNat_toNat, BitVec.setWidth_eq]

/-- A command's word is its OP value and its fields (R91, R97): that value is its encoding, which decodes to it. -/
theorem isCommand_wordOf (i : Instr) :
    IsCommand i (wordOf i.opcode.byte i.fields.rd i.fields.re i.fields.ra i.fields.rb i.fields.rc) (sourcesOf i) := by
  refine ⟨fun w h => ?_, rfl⟩
  rw [wordOf_eq_packWord, ofNat_packWord]
  exact decodeOfEncode w i h

/-! ### Results that fit W bits -/

/-- A command with one V destination whose result needs no wrapping. -/
theorem retireV_completes_of_lt {s : State} (rd : Reg) {x : Nat} (h : x < 2 ^ s.bits) :
    ∃ t, s.retireV rd x = .next t ∧ Completes [rd] [] s t ∧ t.cf = s.cf ∧ t.vreg rd = x := by
  obtain ⟨t, ht, hc, hcf, hv⟩ := retireV_completes s rd x
  exact ⟨t, ht, hc, hcf, hv.trans (Nat.mod_eq_of_lt h)⟩

theorem State.le_bits (s : State) : 512 ≤ s.bits := by
  obtain h | h := bits_eq s.width <;> simp [State.bits, h]

/-- A number of at most 512 bits fits W bits, at either width. -/
theorem State.lt_two_pow_bits (s : State) {k x : Nat} (hk : k ≤ 512) (hx : x < 2 ^ k) : x < 2 ^ s.bits :=
  hx.trans_le (Nat.pow_le_pow_right (by decide) (hk.trans s.le_bits))

theorem State.low_lt (s : State) (k : Nat) (r : Reg) : s.low k r < 2 ^ k := Nat.mod_lt _ (Nat.two_pow_pos k)

/-- The narrowed operand, zero-extended, in the destination: FROM128, FROM256 and FROM512. -/
theorem retireV_low_completes (s : State) (rd ra : Reg) {k : Nat} (hk : k ≤ 512) :
    ∃ t, s.retireV rd (s.low k ra) = .next t ∧ Completes [rd] [] s t ∧ t.cf = s.cf ∧ t.vreg rd = s.vreg ra % 2 ^ k :=
  retireV_completes_of_lt rd (s.lt_two_pow_bits hk (s.low_lt k ra))

/-! ### Commands that set CF alone -/

theorem retire_setCF_completes (s : State) (b : Bool) :
    ∃ t, (s.setCF b).retire = .next t ∧ Completes [] [] s t ∧ t.cf = b := by
  obtain ⟨t, ht, hc, hcf⟩ := retire_completes (s.setCF b)
  exact ⟨t, ht, Completes.of_setCF hc, hcf⟩

/-! ### `Max_k` -/

theorem maxOf_lt (k : Nat) : maxOf k < 2 ^ k := Nat.sub_lt (Nat.two_pow_pos k) Nat.one_pos

theorem maxOf_add_one (k : Nat) : maxOf k + 1 = 2 ^ k := Nat.sub_add_cancel Nat.one_le_two_pow

/-- Every bit of `Max_k` is 1, so a slice of it is all ones. -/
theorem bitSlice_maxOf {k lo n : Nat} (h : lo + n ≤ k) : bitSlice (maxOf k) lo n = maxOf n := by
  apply Nat.eq_of_testBit_eq
  intro i
  simp only [bitSlice, maxOf, Nat.testBit_mod_two_pow, Nat.testBit_div_two_pow, Nat.testBit_two_pow_sub_one]
  by_cases hi : i < n
  · simp only [hi, decide_true, Bool.true_and, decide_eq_true_eq]
    omega
  · simp [hi]

/-! ### The three statements -/

/-- Settles O25: each constant fits W bits, and a limb of MAX is a slice of `Max_W`. -/
theorem constantCommands : Obligations.ConstantCommands := by
  intro s rd
  refine ⟨isCommand_wordOf (.zero rd), isCommand_wordOf (.one rd), isCommand_wordOf (.max rd), ?_, ?_, ?_⟩
  · exact retireV_completes_of_lt rd (Nat.two_pow_pos _)
  · exact retireV_completes_of_lt rd (s.lt_two_pow_bits (k := 1) (by decide) (by decide))
  · obtain ⟨t, ht, hc, hcf, hv⟩ := retireV_completes_of_lt rd (maxOf_lt s.bits)
    refine ⟨t, ht, hc, hcf, by rw [hv, maxOf_add_one], fun j hj => ?_⟩
    have hlimb : 64 * j + 64 ≤ s.bits := by
      rw [State.bits, Width.bits]
      omega
    rw [hv, limbOf, bitSlice_maxOf hlimb]
    rfl

/-- Settles O26: an operand of at most 512 bits fits W bits; FROM512 is no command of the W = 512 instance. -/
theorem wideningConstructors : Obligations.WideningConstructors := by
  intro s rd ra
  refine ⟨isCommand_wordOf (.from64 rd ra), isCommand_wordOf (.from128 rd ra), isCommand_wordOf (.from256 rd ra),
    isCommand_wordOf (.from512 rd ra), ?_, ?_, ?_, fun hw => ?_, fun hw => ?_⟩
  · exact retireV_completes_of_lt rd (s.lt_two_pow_bits (k := 64) (by decide) (s.sreg ra).isLt)
  · exact retireV_low_completes s rd ra (by decide)
  · exact retireV_low_completes s rd ra (by decide)
  · rw [exec, execFrom512, if_pos hw]
    exact retireV_low_completes s rd ra (by decide)
  · exact illFormedCommandTakesIllegal (.from512 rd ra) s (by rw [hw]; rfl)

/-- Settles O24: CLC and STC end as NOP does, once CF is set. -/
theorem controlCommands : Obligations.ControlCommands := by
  intro s
  exact ⟨isCommand_wordOf .nop, isCommand_wordOf .clc, isCommand_wordOf .stc, retire_completes s,
    retire_setCF_completes s false, retire_setCF_completes s true⟩

end Sys2Proof.Machine
end

section
/-! SUPPORT. O27 and O28. Every command of the family ends with a Boolean or a compare result in S[rd], and each end is said once. The
half-width forms are the same ends against the low half of V[rb]; what they add is how a W-bit number compares with an H-bit one. -/

namespace Sys2Proof.Machine

open Sys2Proof.Safety

/-! ### Boolean and compare results -/

theorem boolResult_beq (u v : Nat) : boolResult (u == v) = if u = v then 1 else 0 := by simp [boolResult]

/-- The three results are -1, 0 and +1 as 64-bit two's complement (R140). -/
theorem compareResult_toInt (u v : Nat) : (compareResult u v).toInt = if u < v then -1 else if u = v then 0 else 1 := by
  rw [compareResult, apply_ite BitVec.toInt, apply_ite BitVec.toInt]
  rfl

/-- A command that tests two numbers for equality. -/
theorem retireS_boolResult_completes (s : State) (rd : Reg) (u v : Nat) :
    ∃ t, s.retireS rd (boolResult (u == v)) = .next t ∧ Completes [] [rd] s t ∧ t.cf = s.cf ∧
      t.sreg rd = if u = v then 1 else 0 := by
  obtain ⟨t, ht, hc, hcf, hs⟩ := retireS_completes s rd (boolResult (u == v))
  exact ⟨t, ht, hc, hcf, hs.trans (boolResult_beq u v)⟩

/-- A command that compares two numbers. -/
theorem retireS_compareResult_completes (s : State) (rd : Reg) (u v : Nat) :
    ∃ t, s.retireS rd (compareResult u v) = .next t ∧ Completes [] [rd] s t ∧ t.cf = s.cf ∧
      (t.sreg rd).toInt = if u < v then -1 else if u = v then 0 else 1 := by
  obtain ⟨t, ht, hc, hcf, hs⟩ := retireS_completes s rd (compareResult u v)
  exact ⟨t, ht, hc, hcf, hs ▸ compareResult_toInt u v⟩

/-! ### Halves -/

section
variable {k u v : Nat}

theorem loHalf_of_lt (h : u < 2 ^ k) : loHalf k u = u := by rw [loHalf, bitSlice_zero, Nat.mod_eq_of_lt h]

/-- The high half of a number of two halves is 0 exactly when the number fits the low half. -/
theorem hiHalf_eq_zero_iff (hu : u < 2 ^ (2 * k)) : hiHalf k u = 0 ↔ u < 2 ^ k := by
  have hdiv : u / 2 ^ k < 2 ^ k := Nat.div_lt_of_lt_mul (by rwa [← Nat.pow_add, ← Nat.two_mul])
  rw [hiHalf, bitSlice, Nat.mod_eq_of_lt hdiv, Nat.div_eq_zero_iff_lt (Nat.two_pow_pos k)]

/-- A number of two halves equals one of a single half (R144). -/
theorem eq_iff_halves (hu : u < 2 ^ (2 * k)) (hv : v < 2 ^ k) : u = v ↔ hiHalf k u = 0 ∧ loHalf k u = v := by
  constructor
  · rintro rfl
    exact ⟨(hiHalf_eq_zero_iff hu).2 hv, loHalf_of_lt hv⟩
  · rintro ⟨hhi, hlo⟩
    rwa [loHalf_of_lt ((hiHalf_eq_zero_iff hu).1 hhi)] at hlo

/-- Comparing a number of two halves with one of a single half: a non-zero high half decides, else the low half does (R145). -/
theorem compare_halves (hu : u < 2 ^ (2 * k)) (hv : v < 2 ^ k) :
    (if u < v then -1 else if u = v then 0 else 1 : Int) =
      if hiHalf k u ≠ 0 then 1 else if loHalf k u < v then -1 else if loHalf k u = v then 0 else 1 := by
  by_cases hlow : u < 2 ^ k
  · rw [if_neg (not_not.2 ((hiHalf_eq_zero_iff hu).2 hlow)), loHalf_of_lt hlow]
  · rw [if_pos (hlow ∘ (hiHalf_eq_zero_iff hu).1), if_neg (by omega), if_neg (by omega)]

end

theorem State.vreg_lt_two_halves (s : State) (r : Reg) : s.vreg r < 2 ^ (2 * s.half) :=
  half_eq s.width ▸ s.vreg_lt r

theorem State.halfOperand_eq_loHalf (s : State) (r : Reg) : s.halfOperand r = loHalf s.half (s.vreg r) :=
  (bitSlice_zero _ _).symm

theorem State.halfOperand_lt (s : State) (r : Reg) : s.halfOperand r < 2 ^ s.half := s.low_lt s.half r

/-! ### The two statements -/

/-- Settles O27: the three commands end with the result of a test or of a comparison of their whole operands. -/
theorem predicateCommands : Obligations.PredicateCommands := fun s rd ra rb =>
  ⟨isCommand_wordOf (.isZero rd ra), isCommand_wordOf (.eq rd ra rb), isCommand_wordOf (.cmp rd ra rb),
    retireS_boolResult_completes s rd (s.full ra) 0, retireS_boolResult_completes s rd (s.full ra) (s.full rb),
    retireS_compareResult_completes s rd (s.full ra) (s.full rb)⟩

/-- Settles O28: the second operand is below 2^H, so the comparison of the whole numbers is the one by halves. -/
theorem halfWidthCompares : Obligations.HalfWidthCompares := by
  intro s rd ra rb
  have hu := s.vreg_lt_two_halves ra
  have hv := s.halfOperand_lt rb
  refine ⟨isCommand_wordOf (.eqH rd ra rb), isCommand_wordOf (.cmpH rd ra rb), ?_, ?_⟩
  · simp only [← s.halfOperand_eq_loHalf rb, ← eq_iff_halves hu hv]
    exact retireS_boolResult_completes s rd (s.full ra) (s.halfOperand rb)
  · simp only [← s.halfOperand_eq_loHalf rb, ← compare_halves hu hv]
    exact retireS_compareResult_completes s rd (s.full ra) (s.halfOperand rb)

end Sys2Proof.Machine
end

section
/-! SUPPORT. O29, O30 and O52. A bitwise operation acts on each bit, so on each slice of its operands; the half-width forms are the
full-width ones with an operand whose high half is 0 (R160). REV and REVB are one reversal of base-b digits, at base 2 and 256. -/

namespace Sys2Proof.Machine

open Sys2Proof.Safety

/-! ### The complement -/

theorem complement_lt (k x : Nat) : complement k x < 2 ^ k := (Nat.sub_le _ x).trans_lt (maxOf_lt k)

theorem complement_complement {k x : Nat} (hx : x < 2 ^ k) : complement k (complement k x) = x :=
  Nat.sub_sub_self (Nat.le_sub_one_of_lt hx)

theorem testBit_complement {k x : Nat} (hx : x < 2 ^ k) (i : Nat) :
    (complement k x).testBit i = (decide (i < k) && !x.testBit i) := by
  rw [complement, maxOf, Nat.sub_sub, Nat.add_comm, Nat.testBit_two_pow_sub_succ hx]

/-! ### Slices of a bitwise result -/

theorem testBit_bitSlice (u lo n i : Nat) : (bitSlice u lo n).testBit i = (decide (i < n) && u.testBit (lo + i)) := by
  rw [bitSlice, Nat.testBit_mod_two_pow, Nat.testBit_div_two_pow, Nat.add_comm]

theorem bitSlice_lt (u lo n : Nat) : bitSlice u lo n < 2 ^ n := Nat.mod_lt _ (Nat.two_pow_pos n)

theorem bitSlice_and (u v lo n : Nat) : bitSlice (u &&& v) lo n = bitSlice u lo n &&& bitSlice v lo n := by
  rw [bitSlice, Nat.and_div_two_pow, Nat.and_mod_two_pow, bitSlice, bitSlice]

theorem bitSlice_or (u v lo n : Nat) : bitSlice (u ||| v) lo n = bitSlice u lo n ||| bitSlice v lo n := by
  rw [bitSlice, Nat.or_div_two_pow, Nat.or_mod_two_pow, bitSlice, bitSlice]

theorem bitSlice_xor (u v lo n : Nat) : bitSlice (u ^^^ v) lo n = bitSlice u lo n ^^^ bitSlice v lo n := by
  rw [bitSlice, Nat.xor_div_two_pow, Nat.xor_mod_two_pow, bitSlice, bitSlice]

/-- A slice of the complement is the slice's own complement. -/
theorem bitSlice_complement {k x lo n : Nat} (hx : x < 2 ^ k) (h : lo + n ≤ k) :
    bitSlice (complement k x) lo n = complement n (bitSlice x lo n) := by
  apply Nat.eq_of_testBit_eq
  intro i
  rw [testBit_bitSlice, testBit_complement hx, testBit_complement (bitSlice_lt x lo n), testBit_bitSlice]
  by_cases hi : i < n
  · have hk : lo + i < k := by omega
    simp [hi, hk]
  · simp [hi]

/-! ### The halves of a bitwise result with a half-width operand -/

section
variable {k v : Nat} (u : Nat)

theorem loHalf_complement (hv : v < 2 ^ (2 * k)) : loHalf k (complement (2 * k) v) = complement k (loHalf k v) :=
  bitSlice_complement hv (by omega)

theorem hiHalf_of_lt (hv : v < 2 ^ k) : hiHalf k v = 0 := by rw [hiHalf, bitSlice, Nat.div_eq_of_lt hv, Nat.zero_mod]

/-- The complement at full width of a half-width operand has a high half of all ones. -/
theorem hiHalf_complement_of_lt (hv : v < 2 ^ k) : hiHalf k (complement (2 * k) v) = maxOf k := by
  have hv2 : v < 2 ^ (2 * k) := hv.trans_le (Nat.pow_le_pow_right (by decide) (by omega))
  have hslice : hiHalf k (complement (2 * k) v) = complement k (hiHalf k v) := bitSlice_complement hv2 (by omega)
  rw [hslice, hiHalf_of_lt hv, complement, Nat.sub_zero]

theorem hiHalf_and_of_lt (hv : v < 2 ^ k) : hiHalf k (u &&& v) = 0 := by
  rw [hiHalf, bitSlice_and, ← hiHalf, ← hiHalf, hiHalf_of_lt hv, Nat.and_zero]

theorem hiHalf_or_of_lt (hv : v < 2 ^ k) : hiHalf k (u ||| v) = hiHalf k u := by
  rw [hiHalf, bitSlice_or, ← hiHalf, ← hiHalf, hiHalf_of_lt hv, Nat.or_zero]

theorem hiHalf_xor_of_lt (hv : v < 2 ^ k) : hiHalf k (u ^^^ v) = hiHalf k u := by
  rw [hiHalf, bitSlice_xor, ← hiHalf, ← hiHalf, hiHalf_of_lt hv, Nat.xor_zero]

theorem hiHalf_and_complement_of_lt (hv : v < 2 ^ k) : hiHalf k (u &&& complement (2 * k) v) = hiHalf k u := by
  rw [hiHalf, bitSlice_and, ← hiHalf, ← hiHalf, hiHalf_complement_of_lt hv]
  exact Nat.and_two_pow_sub_one_of_lt_two_pow (bitSlice_lt u k k)

end

/-! ### The ends of the bitwise commands -/

/-- A command with one V destination, its result given bit by bit. -/
theorem retireV_testBit_completes {s : State} (rd : Reg) {x : Nat} {f : Nat → Bool}
    (h : ∀ i < s.bits, x.testBit i = f i) :
    ∃ t, s.retireV rd x = .next t ∧ Completes [rd] [] s t ∧ t.cf = s.cf ∧ ∀ i < s.bits, (t.vreg rd).testBit i = f i := by
  obtain ⟨t, ht, hc, hcf, hv⟩ := retireV_completes s rd x
  refine ⟨t, ht, hc, hcf, fun i hi => ?_⟩
  rw [hv, Nat.testBit_mod_two_pow, decide_eq_true hi, Bool.true_and, h i hi]

theorem State.bits_eq_two_half (s : State) : s.bits = 2 * s.half := half_eq s.width

/-- A command with one V destination, its result given by its halves. -/
theorem retireV_halves_completes {s : State} (rd : Reg) {x lo hi : Nat} (hlo : loHalf s.half x = lo)
    (hhi : hiHalf s.half x = hi) :
    ∃ t, s.retireV rd x = .next t ∧ Completes [rd] [] s t ∧ t.cf = s.cf ∧
      loHalf s.half (t.vreg rd) = lo ∧ hiHalf s.half (t.vreg rd) = hi := by
  obtain ⟨t, ht, hc, hcf, hv⟩ := retireV_completes s rd x
  have slice {j : Nat} (h : j + s.half ≤ 2 * s.half) : bitSlice (t.vreg rd) j s.half = bitSlice x j s.half := by
    rw [hv, s.bits_eq_two_half, ← bitSlice_zero, bitSlice_bitSlice h, Nat.zero_add]
  exact ⟨t, ht, hc, hcf, (slice (by omega)).trans hlo, (slice (by omega)).trans hhi⟩

/-- Settles O29: NOT and ANDNOT complement their last operand, the rest are the operations on naturals, bit by bit. -/
theorem bitwiseCommands : Obligations.BitwiseCommands := by
  intro s rd ra rb
  have notBit (r : Reg) : ∀ i < s.bits, (complement s.bits (s.full r)).testBit i = !(s.vreg r).testBit i := by
    intro i hi
    rw [State.full, testBit_complement (s.vreg_lt r), decide_eq_true hi, Bool.true_and]
  refine ⟨isCommand_wordOf (.not rd ra), isCommand_wordOf (.and rd ra rb), isCommand_wordOf (.or rd ra rb),
    isCommand_wordOf (.xor rd ra rb), isCommand_wordOf (.andNot rd ra rb), ?_, ?_, ?_, ?_, ?_⟩
  · exact retireV_testBit_completes rd (notBit ra)
  · exact retireV_testBit_completes rd fun i _ => Nat.testBit_and ..
  · exact retireV_testBit_completes rd fun i _ => Nat.testBit_or ..
  · exact retireV_testBit_completes rd fun i _ => Nat.testBit_xor ..
  · exact retireV_testBit_completes rd fun i hi => by rw [Nat.testBit_and, notBit rb i hi, State.full]

/-- Settles O30: the half operand is the low half of V[rb], with nothing above it, so its complement is all ones there. -/
theorem halfWidthBitwiseCommands : Obligations.HalfWidthBitwiseCommands := by
  intro s rd ra rb
  have hv := s.halfOperand_lt rb
  have hlo : loHalf s.half (s.halfOperand rb) = loHalf s.half (s.vreg rb) := by
    rw [loHalf_of_lt hv, s.halfOperand_eq_loHalf]
  have hnot : loHalf s.half (complement (2 * s.half) (s.halfOperand rb)) = complement s.half (loHalf s.half (s.vreg rb)) := by
    rw [loHalf_complement (hv.trans_le (Nat.pow_le_pow_right (by decide) (by omega))), hlo]
  refine ⟨isCommand_wordOf (.andH rd ra rb), isCommand_wordOf (.orH rd ra rb), isCommand_wordOf (.xorH rd ra rb),
    isCommand_wordOf (.andNotH rd ra rb), ?_, ?_, ?_, ?_⟩
  · exact retireV_halves_completes rd (hlo ▸ bitSlice_and ..) (hiHalf_and_of_lt _ hv)
  · exact retireV_halves_completes rd (hlo ▸ bitSlice_or ..) (hiHalf_or_of_lt _ hv)
  · exact retireV_halves_completes rd (hlo ▸ bitSlice_xor ..) (hiHalf_xor_of_lt _ hv)
  · rw [exec, execAndNotH, s.bits_eq_two_half]
    exact retireV_halves_completes rd (hnot ▸ bitSlice_and ..) (hiHalf_and_complement_of_lt _ hv)

/-! ### Reversal of digits -/

/-- The low `k` base-`b` digits of `x` in reverse order. -/
def reverseDigits (b : Nat) : Nat → Nat → Nat
  | 0, _ => 0
  | k + 1, x => x % b * b ^ k + reverseDigits b k (x / b)

theorem reverseBits_eq_reverseDigits (k x : Nat) : reverseBits k x = reverseDigits 2 k x := by
  induction k generalizing x with
  | zero => rfl
  | succ k ih => rw [reverseBits, reverseDigits, ih]

theorem reverseBytes_eq_reverseDigits (n x : Nat) : reverseBytes n x = reverseDigits 256 n x := by
  induction n generalizing x with
  | zero => rfl
  | succ n ih => rw [reverseBytes, reverseDigits, ih]

/-- Numbers with the same low `k` digits agree below `b ^ k`. -/
theorem mod_pow_eq_of_digits_eq {b k x y : Nat} (h : ∀ i < k, x / b ^ i % b = y / b ^ i % b) : x % b ^ k = y % b ^ k := by
  induction k with
  | zero => simp [Nat.mod_one]
  | succ k ih =>
    rw [Nat.mod_pow_succ, Nat.mod_pow_succ, ih fun i hi => h i (hi.trans k.lt_succ_self), h k k.lt_succ_self]

section
variable {b : Nat} (hb : 0 < b)
include hb

theorem reverseDigits_lt (k x : Nat) : reverseDigits b k x < b ^ k := by
  induction k generalizing x with
  | zero => exact Nat.one_pos
  | succ k ih =>
    calc x % b * b ^ k + reverseDigits b k (x / b)
      _ < x % b * b ^ k + b ^ k := Nat.add_lt_add_left (ih _) _
      _ = (x % b + 1) * b ^ k := (Nat.succ_mul ..).symm
      _ ≤ b * b ^ k := Nat.mul_le_mul_right _ (Nat.mod_lt x hb)
      _ = b ^ (k + 1) := Nat.pow_succ'.symm

/-- Digit `i` of the reversal is digit `k - 1 - i` (R275, R276). -/
theorem digit_reverseDigits {k i : Nat} (h : i < k) (x : Nat) :
    reverseDigits b k x / b ^ i % b = x / b ^ (k - 1 - i) % b := by
  induction k generalizing x with
  | zero => exact absurd h (Nat.not_lt_zero i)
  | succ k ih =>
    obtain rfl | hi := Nat.eq_or_lt_of_le (Nat.le_of_lt_succ h)
    · rw [reverseDigits, Nat.add_comm, Nat.add_mul_div_right _ _ (Nat.pow_pos hb),
        Nat.div_eq_of_lt (reverseDigits_lt hb i _), Nat.zero_add, Nat.mod_mod]
      simp
    · obtain ⟨m, rfl⟩ := Nat.exists_eq_add_of_lt hi
      have hlead : x % b * b ^ (i + m + 1) = b ^ i * (b * (x % b * b ^ m)) := by ring
      have hexp : i + m + 1 + 1 - 1 - i = (i + m + 1 - 1 - i) + 1 := by omega
      rw [reverseDigits, Nat.add_comm, hlead, Nat.add_mul_div_left _ _ (Nat.pow_pos hb), Nat.add_mul_mod_self_left, ih hi,
        Nat.div_div_eq_div_mul, hexp, Nat.pow_succ']

/-- Reversal twice moves digit `i` to `k - 1 - i` and back. -/
theorem reverseDigits_reverseDigits {k x : Nat} (hx : x < b ^ k) : reverseDigits b k (reverseDigits b k x) = x := by
  have hdigits : ∀ i < k, reverseDigits b k (reverseDigits b k x) / b ^ i % b = x / b ^ i % b := by
    intro i hi
    have hback : k - 1 - (k - 1 - i) = i := by omega
    rw [digit_reverseDigits hb hi, digit_reverseDigits hb (by omega), hback]
  have hmod := mod_pow_eq_of_digits_eq hdigits
  rwa [Nat.mod_eq_of_lt (reverseDigits_lt hb k _), Nat.mod_eq_of_lt hx] at hmod

end

theorem reverseBits_lt (k x : Nat) : reverseBits k x < 2 ^ k := by
  rw [reverseBits_eq_reverseDigits]
  exact reverseDigits_lt (by decide) k x

theorem reverseBits_reverseBits {k x : Nat} (hx : x < 2 ^ k) : reverseBits k (reverseBits k x) = x := by
  rw [reverseBits_eq_reverseDigits, reverseBits_eq_reverseDigits]
  exact reverseDigits_reverseDigits (by decide) hx

theorem reverseBytes_lt (n x : Nat) : reverseBytes n x < 256 ^ n := by
  rw [reverseBytes_eq_reverseDigits]
  exact reverseDigits_lt (by decide) n x

theorem reverseBytes_reverseBytes {n x : Nat} (hx : x < 256 ^ n) : reverseBytes n (reverseBytes n x) = x := by
  rw [reverseBytes_eq_reverseDigits, reverseBytes_eq_reverseDigits]
  exact reverseDigits_reverseDigits (by decide) hx

/-- W bits are W/8 bytes. -/
theorem State.two_pow_bits_eq_bytes (s : State) : 2 ^ s.bits = 256 ^ (s.bits / 8) := by
  have hbytes : s.bits = 8 * (s.bits / 8) := by
    rw [State.bits, Width.bits]
    omega
  have hbase : 256 = 2 ^ 8 := rfl
  rw [hbase, ← Nat.pow_mul, ← hbytes]

/-! ### A unary command run twice -/

/-- A command of one V operand whose operation at width W undoes itself, run twice, the second time in place. -/
theorem retireV_twice_of_involution {s : State} {f : Nat → Nat → Nat} (d a : Reg) (hlt : ∀ x, f s.bits x < 2 ^ s.bits)
    (hinv : ∀ x < 2 ^ s.bits, f s.bits (f s.bits x) = x) :
    ∃ t1 t2, s.retireV d (f s.bits (s.full a)) = .next t1 ∧ t1.retireV d (f t1.bits (t1.full d)) = .next t2 ∧
      t2.vreg d = s.vreg a := by
  obtain ⟨t1, h1, hc, -, hv1⟩ := retireV_completes_of_lt d (hlt (s.full a))
  obtain ⟨hw, -⟩ := keepsRun_of_completes hc
  have hbits : t1.bits = s.bits := congrArg Width.bits hw
  obtain ⟨t2, h2, -, -, hv2⟩ := retireV_completes_of_lt (s := t1) d (x := f t1.bits (t1.full d)) (by rw [hbits]; exact hlt _)
  refine ⟨t1, t2, h1, h2, ?_⟩
  rw [hv2, hbits, State.full, hv1]
  exact hinv _ (s.vreg_lt a)

/-- Settles O52: complement and reversal undo themselves on numbers of W bits. -/
theorem involutionsOfTheBitLayer : Obligations.InvolutionsOfTheBitLayer := by
  intro s d a
  refine ⟨?_, ?_, ?_⟩
  · exact retireV_twice_of_involution (f := complement) d a (complement_lt _) fun _ => complement_complement
  · exact retireV_twice_of_involution (f := reverseBits) d a (reverseBits_lt _) fun _ => reverseBits_reverseBits
  · apply retireV_twice_of_involution (f := fun w => reverseBytes (w / 8)) d a <;> rw [s.two_pow_bits_eq_bytes]
    · exact reverseBytes_lt _
    · exact fun _ => reverseBytes_reverseBytes

end Sys2Proof.Machine
end

section
/-! SUPPORT. O31, O32, O49 and O53. A wrapped result with its carry is `addC` of the operands exactly when the two hold the exact sum
(`eq_addC_iff`), and `subB` when they hold the exact difference (`eq_subB_iff`); the commands and the chains are read off these. -/

namespace Sys2Proof.Machine

open Sys2Proof.Safety

/-! ### The exact sum and the exact difference -/

theorem natCast_truncInt (k : Nat) (z : Int) : (truncInt k z : Int) = z % 2 ^ k :=
  Int.toNat_of_nonneg (Int.emod_nonneg z (by positivity))

theorem truncInt_lt (k : Nat) (z : Int) : truncInt k z < 2 ^ k := by
  zify
  rw [natCast_truncInt]
  exact Int.emod_lt_of_pos z (by positivity)

section
variable {k x y c : Nat} {r : Nat × Nat}

/-- The sum and its carry are the remainder and the quotient of the exact sum by `2^k` (R181). -/
theorem eq_addC_iff : r = addC k x y c ↔ r.1 < 2 ^ k ∧ r.2 * 2 ^ k + r.1 = x + y + c := by
  constructor
  · rintro rfl
    exact ⟨Nat.mod_lt _ (Nat.two_pow_pos k), Nat.div_add_mod' ..⟩
  · rintro ⟨hlt, hsum⟩
    have hquot : r.1 + 2 ^ k * r.2 = x + y + c := by rw [← hsum, Nat.mul_comm, Nat.add_comm]
    obtain ⟨hdiv, hmod⟩ := (Nat.div_mod_unique (Nat.two_pow_pos k)).2 ⟨hquot, hlt⟩
    exact Prod.ext hmod.symm hdiv.symm

theorem subB_borrow_le_one : (subB k x y c).2 ≤ 1 := by
  rw [subB]
  exact ite_le_one le_rfl zero_le_one

section
variable (hx : x < 2 ^ k) (hy : y < 2 ^ k) (hc : c ≤ 1)
include hx hy hc

theorem addC_carry_le_one : (addC k x y c).2 ≤ 1 := by
  have hsum : x + y + c < 2 ^ k * 2 := by omega
  exact Nat.le_of_lt_succ (Nat.div_lt_of_lt_mul hsum)

/-- The difference and its borrow stand for the exact difference: `2^k` is lent exactly when that is negative (R183). -/
theorem eq_subB_iff :
    r = subB k x y c ↔ r.1 < 2 ^ k ∧ r.2 ≤ 1 ∧ (r.1 : Int) - r.2 * 2 ^ k = (x : Int) - y - c := by
  zify at hx hy hc
  constructor
  · rintro rfl
    refine ⟨truncInt_lt k _, subB_borrow_le_one, ?_⟩
    rw [subB, natCast_truncInt]
    by_cases hborrow : x < y + c
    · rw [if_pos hborrow, ← Int.add_emod_right, Int.emod_eq_of_lt (by omega) (by omega)]
      omega
    · rw [if_neg hborrow, Int.emod_eq_of_lt (by omega) (by omega)]
      omega
  · rintro ⟨hlt, hle, hdiff⟩
    zify at hlt
    have hfst : truncInt k ((x : Int) - y - c) = r.1 := by
      zify
      rw [natCast_truncInt, ← hdiff, Int.sub_mul_emod_self_right, Int.emod_eq_of_lt (by omega) hlt]
    have hsnd : (if x < y + c then 1 else 0) = r.2 := by
      obtain h | h : r.2 = 0 ∨ r.2 = 1 := by omega
      · rw [h] at hdiff ⊢
        exact if_neg (by omega)
      · rw [h] at hdiff ⊢
        exact if_pos (by omega)
    rw [subB, hfst, hsnd]

end
end

/-! ### The commands -/

theorem flagNat_le_one (b : Bool) : flagNat b ≤ 1 := b.toNat_le

theorem toNat_flagOf {c : Nat} (hc : c ≤ 1) : (flagOf c).toNat = c := by interval_cases c <;> rfl

/-- A command with one V destination that gives a difference mod 2^W. -/
theorem retireV_subB_completes (s : State) (rd : Reg) (u v : Nat) :
    ∃ t, s.retireV rd (subB s.bits u v 0).1 = .next t ∧ Completes [rd] [] s t ∧ t.cf = s.cf ∧
      (t.vreg rd : Int) = ((u : Int) - v) % 2 ^ s.bits := by
  obtain ⟨t, ht, hc, hcf, hv⟩ := retireV_completes_of_lt rd (truncInt_lt s.bits ((u : Int) - v - (0 : Nat)))
  exact ⟨t, ht, hc, hcf, by rw [hv, natCast_truncInt, Nat.cast_zero, sub_zero]⟩

/-- A command that writes a W-bit result and a carry of 0 or 1. -/
theorem retireV_setCF_completes {s : State} (rd : Reg) {r : Nat × Nat} (hfst : r.1 < 2 ^ s.bits) (hsnd : r.2 ≤ 1) :
    ∃ t, (s.setCF (flagOf r.2)).retireV rd r.1 = .next t ∧ Completes [rd] [] s t ∧ t.cf.toNat = r.2 ∧ t.vreg rd = r.1 := by
  obtain ⟨t, ht, hc, hcf, hv⟩ := retireV_completes_of_lt (s := s.setCF (flagOf r.2)) rd hfst
  exact ⟨t, ht, Completes.of_setCF hc, by rw [hcf, State.setCF_cf, toNat_flagOf hsnd], hv⟩

/-- Settles O31: a sum wraps as every result does, and a difference is reduced before it is written. -/
theorem wrappingAddAndSubtract : Obligations.WrappingAddAndSubtract := by
  intro s rd ra rb
  refine ⟨isCommand_wordOf (.add rd ra rb), isCommand_wordOf (.sub rd ra rb), isCommand_wordOf (.addH rd ra rb),
    isCommand_wordOf (.subH rd ra rb), ?_, ?_, ?_, ?_⟩
  · exact retireV_completes_of_lt rd (Nat.mod_lt _ (Nat.two_pow_pos _))
  · exact retireV_subB_completes s rd (s.full ra) (s.full rb)
  · exact retireV_completes_of_lt rd (Nat.mod_lt _ (Nat.two_pow_pos _))
  · exact retireV_subB_completes s rd (s.full ra) (s.halfOperand rb)

/-- Settles O32: the flag and the register hold the carry and the result of `addC`, or of `subB`, which are exact together. -/
theorem addWithCarryIsExact : Obligations.AddWithCarryIsExact := by
  intro s rd ra rb
  have hx := s.vreg_lt ra
  have hy := s.vreg_lt rb
  have hc := flagNat_le_one s.cf
  refine ⟨isCommand_wordOf (.addc rd ra rb), isCommand_wordOf (.subb rd ra rb), ?_, ?_⟩
  · obtain ⟨hlt, hsum⟩ := eq_addC_iff.1 (Eq.refl (addC s.bits (s.full ra) (s.full rb) (flagNat s.cf)))
    obtain ⟨t, ht, hcomp, hcf, hv⟩ := retireV_setCF_completes rd hlt (addC_carry_le_one hx hy hc)
    exact ⟨t, ht, hcomp, by rw [hcf, hv]; exact hsum⟩
  · obtain ⟨hlt, hle, hdiff⟩ := (eq_subB_iff hx hy hc).1 (Eq.refl (subB s.bits (s.full ra) (s.full rb) (flagNat s.cf)))
    obtain ⟨t, ht, hcomp, hcf, hv⟩ := retireV_setCF_completes rd hlt hle
    exact ⟨t, ht, hcomp, by rw [hcf, hv]; exact hdiff⟩

/-! ### Chains: the carry of the low part goes into the high part -/

/-- Two exact sums, the second with the first one's carry, make one exact sum at twice the width. -/
theorem sum_of_parts {m x0 x1 y0 y1 s0 s1 c c0 c1 : Nat} (hlow : c0 * m + s0 = x0 + y0 + c)
    (hhigh : c1 * m + s1 = x1 + y1 + c0) :
    (c1 * m + s1) * m + s0 = (x1 * m + x0) + (y1 * m + y0) + c := by
  linear_combination m * hhigh + hlow

/-- Two exact differences, the second with the first one's borrow, make one exact difference at twice the width. -/
theorem difference_of_parts {m x0 x1 y0 y1 d0 d1 b b0 b1 : Int} (hlow : d0 - b0 * m = x0 - y0 - b)
    (hhigh : d1 - b1 * m = x1 - y1 - b0) :
    (d1 - b1 * m) * m + d0 = (x1 * m + x0) - (y1 * m + y0) - b := by
  linear_combination m * hhigh + hlow

section
variable {vs ss : List Reg} {s t : State} (h : Completes vs ss s t)
include h

theorem vreg_of_completes {r : Reg} (hr : r ∉ vs) : t.vreg r = s.vreg r := by
  obtain ⟨-, -, -, -, hframe, -⟩ := h
  exact (hframe r hr).1

theorem bits_of_completes : t.bits = s.bits := by
  obtain ⟨hw, -⟩ := keepsRun_of_completes h
  exact congrArg Width.bits hw

end

/-- Settles O49: the second ADDC adds the high operands, which the first left alone, with the first one's carry. -/
theorem carryChainAcrossRegisters : Obligations.CarryChainAcrossRegisters := by
  intro s d0 d1 a0 a1 b0 b1 hd ha hb
  obtain ⟨-, -, -, -, ⟨t1, h1, hc1, hcf1⟩, -⟩ := controlCommands s
  obtain ⟨-, -, ⟨t2, h2, hc2, hsum2⟩, -⟩ := addWithCarryIsExact t1 d0 a0 b0
  obtain ⟨-, -, ⟨t3, h3, hc3, hsum3⟩, -⟩ := addWithCarryIsExact t2 d1 a1 b1
  have hclc (r : Reg) : t1.vreg r = s.vreg r := vreg_of_completes hc1 List.not_mem_nil
  have hlow {r : Reg} (hr : d0 ≠ r) : t2.vreg r = s.vreg r :=
    (vreg_of_completes hc2 (by simpa using hr.symm)).trans (hclc r)
  have hkept : t3.vreg d0 = t2.vreg d0 := vreg_of_completes hc3 (by simpa using hd)
  have hbits1 := bits_of_completes hc1
  have hbits2 := (bits_of_completes hc2).trans hbits1
  rw [hbits1, hcf1, hclc, hclc] at hsum2
  rw [hbits2, hlow ha, hlow hb] at hsum3
  refine ⟨t1, t2, t3, h1, h2, h3, ?_⟩
  rw [hkept]
  exact sum_of_parts hsum2 hsum3

/-! ### The chain by halves -/

section
variable {k u v : Nat}

theorem loHalf_lt (k u : Nat) : loHalf k u < 2 ^ k := bitSlice_lt u 0 k

theorem hiHalf_lt (k u : Nat) : hiHalf k u < 2 ^ k := bitSlice_lt u k k

/-- A number of two halves is the pair of them (R11). -/
theorem halves_eq (hu : u < 2 ^ (2 * k)) : hiHalf k u * 2 ^ k + loHalf k u = u := by
  have hdiv : u / 2 ^ k < 2 ^ k := Nat.div_lt_of_lt_mul (by rwa [← Nat.pow_add, ← Nat.two_mul])
  rw [hiHalf, bitSlice, Nat.mod_eq_of_lt hdiv, loHalf, bitSlice_zero, Nat.div_add_mod']

theorem pair_lt (hu : u < 2 ^ k) (hv : v < 2 ^ k) : pair k u v < 2 ^ (2 * k) := by
  calc v + u * 2 ^ k
    _ < 2 ^ k + u * 2 ^ k := Nat.add_lt_add_right hv _
    _ = (u + 1) * 2 ^ k := by ring
    _ ≤ 2 ^ k * 2 ^ k := Nat.mul_le_mul_right _ hu
    _ = 2 ^ (2 * k) := by ring

end

section
variable {k x y c : Nat} {l h : Nat × Nat} (hx : x < 2 ^ (2 * k)) (hy : y < 2 ^ (2 * k))
include hx hy

/-- `AddC` at twice the width is the low `AddC` and the high one with the low one's carry (R186). -/
theorem pair_addC_halves (hl : l = addC k (loHalf k x) (loHalf k y) c) (hh : h = addC k (hiHalf k x) (hiHalf k y) l.2) :
    (pair k h.1 l.1, h.2) = addC (2 * k) x y c := by
  obtain ⟨hltl, hlow⟩ := eq_addC_iff.1 hl
  obtain ⟨hlth, hhigh⟩ := eq_addC_iff.1 hh
  have hsum := sum_of_parts hlow hhigh
  rw [halves_eq hx, halves_eq hy] at hsum
  refine eq_addC_iff.2 ⟨pair_lt hlth hltl, ?_⟩
  rw [← hsum, pair]
  ring

/-- `SubB` at twice the width is the low `SubB` and the high one with the low one's borrow (R186). -/
theorem pair_subB_halves (hc : c ≤ 1) (hl : l = subB k (loHalf k x) (loHalf k y) c)
    (hh : h = subB k (hiHalf k x) (hiHalf k y) l.2) : (pair k h.1 l.1, h.2) = subB (2 * k) x y c := by
  obtain ⟨hltl, hlel, hlow⟩ := (eq_subB_iff (loHalf_lt k x) (loHalf_lt k y) hc).1 hl
  obtain ⟨hlth, hleh, hhigh⟩ := (eq_subB_iff (hiHalf_lt k x) (hiHalf_lt k y) hlel).1 hh
  have hdiff := difference_of_parts hlow hhigh
  refine (eq_subB_iff hx hy hc).2 ⟨pair_lt hlth hltl, hleh, ?_⟩
  rw [← halves_eq hx, ← halves_eq hy]
  push_cast [pair]
  rw [← hdiff]
  ring

end

/-- A 64-bit sum wrapped exactly when it is below its first operand: the comparison of the idiom (R186). -/
theorem carry_eq_wrapped_lt {a b : Nat} (ha : a < 2 ^ 64) (hb : b < 2 ^ 64) :
    (if trunc 64 (a + b) < a then 1 else 0) = (a + b) / 2 ^ 64 := by
  rw [trunc]
  split <;> omega

/-- The two-line idiom at a limb: its two carries are not both 1, so their disjunction is their sum (R186). -/
theorem limbAdd_eq_addC {a b c : Nat} (ha : a < 2 ^ 64) (hb : b < 2 ^ 64) (hc : c ≤ 1) : limbAdd a b c = addC 64 a b c := by
  have hs : trunc 64 (a + b) < 2 ^ 64 := Nat.mod_lt _ (by decide)
  rw [limbAdd, carry_eq_wrapped_lt ha hb, Nat.add_comm _ c, carry_eq_wrapped_lt (by omega) hs]
  have hor : (a + b) / 2 ^ 64 ||| (c + trunc 64 (a + b)) / 2 ^ 64 = (a + b) / 2 ^ 64 + (c + trunc 64 (a + b)) / 2 ^ 64 := by
    obtain h1 | ⟨h1, h2⟩ : (a + b) / 2 ^ 64 = 0 ∨ (a + b) / 2 ^ 64 = 1 ∧ (c + trunc 64 (a + b)) / 2 ^ 64 = 0 := by
      rw [trunc]
      omega
    · rw [h1, Nat.zero_or, Nat.zero_add]
    · rw [h1, h2, Nat.or_zero, Nat.add_zero]
  rw [hor]
  refine eq_addC_iff.2 ⟨Nat.mod_lt _ (by decide), ?_⟩
  simp only [trunc]
  omega

theorem carryChain_eq_addC {n x y c : Nat} (hx : x < 2 ^ (64 * 2 ^ n)) (hy : y < 2 ^ (64 * 2 ^ n)) (hc : c ≤ 1) :
    carryChain n x y c = addC (64 * 2 ^ n) x y c := by
  induction n generalizing x y c with
  | zero => exact limbAdd_eq_addC hx hy hc
  | succ n ih =>
    have hwidth : 64 * 2 ^ (n + 1) = 2 * (64 * 2 ^ n) := by ring
    rw [hwidth] at hx hy ⊢
    have hlow := ih (loHalf_lt _ x) (loHalf_lt _ y) hc
    have hcarry := addC_carry_le_one (loHalf_lt (64 * 2 ^ n) x) (loHalf_lt _ y) hc
    exact pair_addC_halves hx hy hlow (ih (hiHalf_lt _ x) (hiHalf_lt _ y) (hlow ▸ hcarry))

theorem borrowChain_eq_subB {n x y c : Nat} (hx : x < 2 ^ (64 * 2 ^ n)) (hy : y < 2 ^ (64 * 2 ^ n)) (hc : c ≤ 1) :
    borrowChain n x y c = subB (64 * 2 ^ n) x y c := by
  induction n generalizing x y c with
  | zero => rfl
  | succ n ih =>
    have hwidth : 64 * 2 ^ (n + 1) = 2 * (64 * 2 ^ n) := by ring
    rw [hwidth] at hx hy ⊢
    have hlow := ih (loHalf_lt _ x) (loHalf_lt _ y) hc
    exact pair_subB_halves hx hy hc hlow (ih (hiHalf_lt _ x) (hiHalf_lt _ y) (hlow ▸ subB_borrow_le_one))

/-- Settles O53, by induction on the number of halvings: each level adds the halves with the carry between them. -/
theorem carryChainComputesTheSum : Obligations.CarryChainComputesTheSum := fun _ _ _ _ hx hy hc =>
  ⟨carryChain_eq_addC hx hy hc, borrowChain_eq_subB hx hy hc⟩

end Sys2Proof.Machine
end

section
/-! SUPPORT. O33, O34, O50 and O54. The two results of `mulX` are the product of its operands exactly when they hold that product
together (`eq_mulX_iff`): the widening command, its round trip with DIVX and the schoolbook multiplier are read off this. -/

namespace Sys2Proof.Machine

open Sys2Proof.Safety

/-! ### The exact product -/

section
variable {k x y : Nat}

/-- The two results are the quotient and the remainder of the exact product by `2^k`, as those of a sum of one term are (R14). -/
theorem eq_mulX_iff {r : Nat × Nat} : r = mulX k x y ↔ r.2 < 2 ^ k ∧ r.1 * 2 ^ k + r.2 = x * y := by
  have hswap : mulX k x y = (addC k (x * y) 0 0).swap := rfl
  rw [hswap, ← Prod.swap_eq_iff_eq_swap]
  exact eq_addC_iff

theorem mulX_hi_lt (hx : x < 2 ^ k) (hy : y < 2 ^ k) : (mulX k x y).1 < 2 ^ k :=
  Nat.div_lt_of_lt_mul (Nat.mul_lt_mul'' hx hy)

end

/-! ### The commands -/

/-- A command with two V destinations whose results need no wrapping. -/
theorem retireVV_completes_of_lt {s : State} {rd re : Reg} (hne : rd ≠ re) {x y : Nat} (hx : x < 2 ^ s.bits)
    (hy : y < 2 ^ s.bits) :
    ∃ t, s.retireVV rd re x y = .next t ∧ Completes [rd, re] [] s t ∧ t.cf = s.cf ∧ t.vreg rd = x ∧ t.vreg re = y := by
  obtain ⟨t, ht, hc, hcf, hvd, hve⟩ := retireVV_completes s hne x y
  exact ⟨t, ht, hc, hcf, hvd.trans (Nat.mod_eq_of_lt hx), hve.trans (Nat.mod_eq_of_lt hy)⟩

/-- Settles O33: each command ends with a number reduced mod 2^W. -/
theorem wrappingProducts : Obligations.WrappingProducts := fun _ rd ra rb =>
  ⟨isCommand_wordOf (.mul rd ra rb), isCommand_wordOf (.mulH rd ra rb),
    retireV_completes_of_lt rd (Nat.mod_lt _ (Nat.two_pow_pos _)),
    retireV_completes_of_lt rd (Nat.mod_lt _ (Nat.two_pow_pos _))⟩

/-- Settles O34: both results of `mulX` fit W bits, and together they are the product. -/
theorem wideningProductIsExact : Obligations.WideningProductIsExact := by
  intro s rd re ra rb
  refine ⟨isCommand_wordOf (.mulx rd re ra rb), fun hne => ?_, fun heq => ?_⟩
  · obtain ⟨hlo, hprod⟩ := eq_mulX_iff.1 (Eq.refl (mulX s.bits (s.full ra) (s.full rb)))
    obtain ⟨t, ht, hc, hcf, hvd, hve⟩ := retireVV_completes_of_lt hne hlo (mulX_hi_lt (s.vreg_lt ra) (s.vreg_lt rb))
    refine ⟨t, ?_, hc, hcf, by rw [hve, hvd]; exact hprod⟩
    rw [exec, execMulx, if_neg hne]
    exact ht
  · exact illFormedCommandTakesIllegal (.mulx rd re ra rb) s (bne_eq_false_iff_eq.2 heq)

/-! ### Multiplying and dividing again -/

/-- The quotient of `Div_k` fits k bits when the high part of the dividend is below the divisor (R14). -/
theorem pair_div_lt {k hi lo y : Nat} (hlo : lo < 2 ^ k) (hhi : hi < y) : pair k hi lo / y < 2 ^ k := by
  apply Nat.div_lt_of_lt_mul
  calc lo + hi * 2 ^ k
    _ < 2 ^ k + hi * 2 ^ k := Nat.add_lt_add_right hlo _
    _ = (hi + 1) * 2 ^ k := by ring
    _ ≤ y * 2 ^ k := Nat.mul_le_mul_right _ hhi

theorem divK_of_lt (k lo : Nat) {hi y : Nat} (h : hi < y) :
    divK k hi lo y = .ok (pair k hi lo / y, pair k hi lo % y) := by
  rw [divK, if_neg (by omega), if_neg (by omega)]

/-- DIVX with the high part of its dividend below the divisor (R225). -/
theorem exec_divx_completes {s : State} {rd re ra rc : Reg} (rb : Reg) (hne : rd ≠ re) (hlt : s.vreg ra < s.vreg rc) :
    ∃ t, exec (.divx rd re ra rb rc) s = .next t ∧ Completes [rd, re] [] s t ∧ t.cf = s.cf ∧
      t.vreg rd = pair s.bits (s.vreg ra) (s.vreg rb) / s.vreg rc ∧
      t.vreg re = pair s.bits (s.vreg ra) (s.vreg rb) % s.vreg rc := by
  have hrem := (Nat.mod_lt (pair s.bits (s.vreg ra) (s.vreg rb)) (Nat.zero_lt_of_lt hlt)).trans (s.vreg_lt rc)
  simp only [exec, execDivx, if_neg hne, State.full, divK_of_lt _ _ hlt]
  exact retireVV_completes_of_lt hne (pair_div_lt (s.vreg_lt rb) hlt) hrem

/-- Settles O50: the high part of a product by `y` is below `y`, so DIVX divides the exact product. -/
theorem multiplyThenDivideRoundTrip : Obligations.MultiplyThenDivideRoundTrip := by
  intro s lo hi x y q r hlohi hqr hlo hhi hy
  obtain ⟨-, hmul, -⟩ := wideningProductIsExact s lo hi x y
  obtain ⟨t1, h1, hc1, -, hprod⟩ := hmul hlohi
  have hkept : t1.vreg y = s.vreg y := vreg_of_completes hc1 (by simp [hlo.symm, hhi.symm])
  have hpair : pair t1.bits (t1.vreg hi) (t1.vreg lo) = s.vreg x * s.vreg y := by
    rw [pair, bits_of_completes hc1, Nat.add_comm, hprod]
  have hlt : t1.vreg hi < t1.vreg y := by
    apply Nat.lt_of_mul_lt_mul_right (a := 2 ^ s.bits)
    calc t1.vreg hi * 2 ^ s.bits
      _ ≤ s.vreg x * s.vreg y := Nat.le.intro hprod
      _ < 2 ^ s.bits * s.vreg y := Nat.mul_lt_mul_of_pos_right (s.vreg_lt x) (Nat.pos_of_ne_zero hy)
      _ = t1.vreg y * 2 ^ s.bits := by rw [hkept, Nat.mul_comm]
  obtain ⟨t2, h2, ⟨hidle, -⟩, -, hquot, hrem⟩ := exec_divx_completes lo hqr hlt
  refine ⟨t1, t2, h1, h2, hidle, ?_, ?_⟩
  · rw [hquot, hpair, hkept, Nat.mul_div_cancel _ (Nat.pos_of_ne_zero hy)]
  · rw [hrem, hpair, hkept, Nat.mul_mod_left]

/-! ### Products by halves -/

section
variable {k x y : Nat} (hx : x < 2 ^ (2 * k)) (hy : y < 2 ^ (2 * k))
include hx hy

/-- `MulX` at twice the width from the four half-products (R203). `a` and `c` add the first cross product into the middle digits,
`b` and `d` the second; the carries out of `c` and `d` go into the top digit. -/
theorem pair_mulX_halves {lo hi t t' a b c d : Nat × Nat} (hlo : lo = mulX k (loHalf k x) (loHalf k y))
    (hhi : hi = mulX k (hiHalf k x) (hiHalf k y)) (ht : t = mulX k (loHalf k x) (hiHalf k y))
    (ht' : t' = mulX k (hiHalf k x) (loHalf k y)) (ha : a = addC k lo.1 t.2 0) (hb : b = addC k a.1 t'.2 0)
    (hc : c = addC k hi.2 t.1 a.2) (hd : d = addC k c.1 t'.1 b.2) :
    (pair k (hi.1 + c.2 + d.2) d.1, pair k b.1 lo.2) = mulX (2 * k) x y := by
  obtain ⟨hltlo, hlo⟩ := eq_mulX_iff.1 hlo
  obtain ⟨-, hhi⟩ := eq_mulX_iff.1 hhi
  obtain ⟨-, ht⟩ := eq_mulX_iff.1 ht
  obtain ⟨-, ht'⟩ := eq_mulX_iff.1 ht'
  obtain ⟨-, ha⟩ := eq_addC_iff.1 ha
  obtain ⟨hltb, hb⟩ := eq_addC_iff.1 hb
  obtain ⟨-, hc⟩ := eq_addC_iff.1 hc
  obtain ⟨-, hd⟩ := eq_addC_iff.1 hd
  have hfirst := sum_of_parts ha hc
  have hsecond := sum_of_parts hb hd
  refine eq_mulX_iff.2 ⟨pair_lt hltb hltlo, ?_⟩
  rw [← halves_eq hx, ← halves_eq hy, pair, pair]
  linear_combination hlo + 2 ^ k * (ht + ht' + hfirst + hsecond) + 2 ^ (2 * k) * hhi

end

theorem schoolbook_eq_mulX {n x y : Nat} (hx : x < 2 ^ (64 * 2 ^ n)) (hy : y < 2 ^ (64 * 2 ^ n)) :
    schoolbook n x y = mulX (64 * 2 ^ n) x y := by
  induction n generalizing x y with
  | zero => rfl
  | succ n ih =>
    have hwidth : 64 * 2 ^ (n + 1) = 2 * (64 * 2 ^ n) := by ring
    rw [hwidth] at hx hy ⊢
    exact pair_mulX_halves hx hy (ih (loHalf_lt _ x) (loHalf_lt _ y)) (ih (hiHalf_lt _ x) (hiHalf_lt _ y))
      (ih (loHalf_lt _ x) (hiHalf_lt _ y)) (ih (hiHalf_lt _ x) (loHalf_lt _ y)) rfl rfl rfl rfl

/-- Wrapping the high half at k bits wraps the pair at 2k. -/
theorem pair_trunc {k lo : Nat} (hlo : lo < 2 ^ k) (hi : Nat) : pair k (trunc k hi) lo = trunc (2 * k) (pair k hi lo) := by
  have hwidth : 2 ^ (2 * k) = 2 ^ k * 2 ^ k := by ring
  rw [pair, pair, trunc, trunc, hwidth, Nat.mod_mul, Nat.add_mul_mod_self_right, Nat.mod_eq_of_lt hlo,
    Nat.add_mul_div_right _ _ (Nat.two_pow_pos k), Nat.div_eq_of_lt hlo, Nat.zero_add, Nat.mul_comm]

/-- The cross products may be wrapped before they are added (R204), and the product of the high halves is a multiple of 2^(2k). -/
theorem wrappingMul_eq_trunc {k u v : Nat} (hu : u < 2 ^ (2 * k)) (hv : v < 2 ^ (2 * k)) :
    wrappingMul k u v = trunc (2 * k) (u * v) := by
  obtain ⟨hlt, hlow⟩ := eq_mulX_iff.1 (Eq.refl (mulX k (loHalf k u) (loHalf k v)))
  have hmiddle (p a b : Nat) : trunc k (p + trunc k a + trunc k b) = trunc k (p + a + b) := by simp [trunc, Nat.add_mod]
  have hproduct : u * v = pair k ((mulX k (loHalf k u) (loHalf k v)).1 + hiHalf k u * loHalf k v + loHalf k u * hiHalf k v)
      (mulX k (loHalf k u) (loHalf k v)).2 + 2 ^ (2 * k) * (hiHalf k u * hiHalf k v) := by
    rw [pair]
    nth_rw 1 [← halves_eq hu, ← halves_eq hv]
    linear_combination hlow.symm
  rw [wrappingMul, hmiddle, pair_trunc hlt, hproduct, trunc, trunc, Nat.add_mul_mod_self_left]

/-- Settles O54: by induction on the number of halvings, and by one split into halves. -/
theorem multipliersComputeTheProduct : Obligations.MultipliersComputeTheProduct :=
  ⟨fun _ _ _ => schoolbook_eq_mulX, fun _ _ _ => wrappingMul_eq_trunc⟩

end Sys2Proof.Machine
end

section
/-! SUPPORT. O35, O36 and O55 to O57. A dividend is divided digit by digit, the remainder of the upper part above the next digit
(`pair_div`, `pair_mod`): the narrow dividers are this, and the two that try a quotient add a bound on how far it is from the true one
(`trial_quotient_bounds`, `trial_le_div_add_two`). -/

namespace Sys2Proof.Machine

open Sys2Proof.Safety

/-! ### The commands -/

/-- A QUOREM form with a divisor that is not 0: the quotient and the remainder fit W bits as the dividend does. -/
theorem quoRemBy_completes {s : State} {rd re : Reg} (hne : rd ≠ re) {u v : Nat} (hu : u < 2 ^ s.bits) (hv : v ≠ 0) :
    ∃ t, s.quoRemBy rd re u v = .next t ∧ Completes [rd, re] [] s t ∧ t.cf = s.cf ∧
      u = t.vreg rd * v + t.vreg re ∧ t.vreg re < v := by
  obtain ⟨t, ht, hc, hcf, hquot, hrem⟩ :=
    retireVV_completes_of_lt hne ((Nat.div_le_self u v).trans_lt hu) ((Nat.mod_le u v).trans_lt hu)
  rw [State.quoRemBy, if_neg hne, if_neg hv]
  refine ⟨t, ht, hc, hcf, ?_, ?_⟩
  · rw [hquot, hrem, Nat.div_add_mod']
  · rw [hrem]
    exact Nat.mod_lt u (Nat.pos_of_ne_zero hv)

theorem quoRemBy_zero_faults {rd re : Reg} (hne : rd ≠ re) (s : State) (u : Nat) :
    ∃ t, s.quoRemBy rd re u 0 = .next t ∧ Faults .divideByZero s t := by
  rw [State.quoRemBy, if_neg hne, if_pos rfl]
  exact takeFault_faults s .divideByZero

/-- Settles O35: each form is QUOREM of V[ra] by the divisor it reads; QUOREM.512 is not legal at W = 512. -/
theorem quotientAndRemainder : Obligations.QuotientAndRemainder := by
  refine ⟨fun rd re ra rb => ⟨isCommand_wordOf (.quoRem rd re ra rb), isCommand_wordOf (.quoRem64 rd re ra rb),
    isCommand_wordOf (.quoRem128 rd re ra rb), isCommand_wordOf (.quoRem256 rd re ra rb),
    isCommand_wordOf (.quoRem512 rd re ra rb)⟩, fun s rd re ra rb hw => ?_, fun s rd re ra rb i v hne hform => ?_⟩
  · exact illFormedCommandTakesIllegal (.quoRem512 rd re ra rb) s (by rw [hw]; rfl)
  · have hexec : exec i s = s.quoRemBy rd re (s.vreg ra) v := by
      obtain ⟨rfl, rfl⟩ | ⟨rfl, rfl⟩ | ⟨rfl, rfl⟩ | ⟨rfl, rfl⟩ | ⟨hw, rfl, rfl⟩ := hform
      · rfl
      · rfl
      · rfl
      · rfl
      · exact if_pos hw
    rw [hexec]
    refine ⟨quoRemBy_completes hne (s.vreg_lt ra), ?_⟩
    rintro rfl
    exact quoRemBy_zero_faults hne s (s.vreg ra)

theorem divK_zero (k hi lo : Nat) : divK k hi lo 0 = .error .divideByZero := rfl

theorem divK_of_le (k lo : Nat) {hi y : Nat} (hy : 0 < y) (h : y ≤ hi) : divK k hi lo y = .error .quotientOverflow := by
  rw [divK, if_neg hy.ne', if_pos h]

/-- DIVX when `Div_W` of its operands fails (R225). -/
theorem exec_divx_faults {s : State} {rd re ra rb rc : Reg} (hne : rd ≠ re) {code : FaultCode}
    (h : divK s.bits (s.vreg ra) (s.vreg rb) (s.vreg rc) = .error code) :
    ∃ t, exec (.divx rd re ra rb rc) s = .next t ∧ Faults code s t := by
  simp only [exec, execDivx, if_neg hne, State.full, h]
  exact takeFault_faults s code

/-- Settles O36: the three results of `Div_W`, each with the condition it comes under. -/
theorem wideningDivision : Obligations.WideningDivision := by
  intro s rd re ra rb rc
  refine ⟨isCommand_wordOf (.divx rd re ra rb rc), fun heq => ?_, fun hne hzero => ?_, fun hne hpos hle => ?_,
    fun hne hlt => ?_⟩
  · exact illFormedCommandTakesIllegal (.divx rd re ra rb rc) s (bne_eq_false_iff_eq.2 heq)
  · exact exec_divx_faults hne (by rw [hzero, divK_zero])
  · exact exec_divx_faults hne (divK_of_le _ _ hpos hle)
  · obtain ⟨t, ht, hc, hcf, hquot, hrem⟩ := exec_divx_completes rb hne hlt
    refine ⟨t, ht, hc, hcf, ?_, ?_⟩
    · rw [hquot, hrem, Nat.div_add_mod', pair, Nat.add_comm]
    · rw [hrem]
      exact Nat.mod_lt _ (Nat.zero_lt_of_lt hlt)

/-! ### Long division -/

theorem ok_bind {ε α β : Type} (a : α) (f : α → Except ε β) : (Except.ok a >>= f) = f a := rfl

theorem pair_halves {k u : Nat} (hu : u < 2 ^ (2 * k)) : pair k (hiHalf k u) (loHalf k u) = u := by
  rw [pair, Nat.add_comm, halves_eq hu]

section
variable (k hi lo v : Nat)

/-- Dividing the high part first takes a multiple of the divisor off the whole. -/
theorem pair_eq_pair_mod_add : pair k hi lo = pair k (hi % v) lo + v * (hi / v * 2 ^ k) := by
  nth_rw 1 [pair, pair, ← Nat.div_add_mod hi v]
  ring

theorem pair_div (hv : 0 < v) : pair k (hi / v) (pair k (hi % v) lo / v) = pair k hi lo / v := by
  rw [pair_eq_pair_mod_add k hi lo v, Nat.add_mul_div_left _ _ hv]
  rfl

theorem pair_mod : pair k (hi % v) lo % v = pair k hi lo % v := by
  rw [pair_eq_pair_mod_add k hi lo v, Nat.add_mul_mod_self_left]

end

/-- A k-bit digit under `r`, and `m` bits under both. -/
theorem pair_pair_bitSlice (k m r u : Nat) :
    pair m (pair k r (bitSlice u m k)) (u % 2 ^ m) = pair (m + k) r (u % 2 ^ (m + k)) := by
  simp only [pair, bitSlice]
  rw [Nat.pow_add, Nat.mod_mul]
  ring

/-- The digit loop divides what is left of the dividend, with the running remainder above it (R228). -/
theorem quoRemNarrow_of_lt (k n u : Nat) {v r : Nat} (hr : r < v) :
    quoRemNarrow k n u v r = .ok (pair (k * n) r (u % 2 ^ (k * n)) / v, pair (k * n) r (u % 2 ^ (k * n)) % v) := by
  have hv : 0 < v := Nat.zero_lt_of_lt hr
  induction n generalizing r with
  | zero => simp [quoRemNarrow, pair, Nat.mod_one, Nat.div_eq_of_lt hr, Nat.mod_eq_of_lt hr]
  | succ n ih =>
    have hquot := pair_div (k * n) (pair k r (bitSlice u (k * n) k)) (u % 2 ^ (k * n)) v hv
    have hrem := pair_mod (k * n) (pair k r (bitSlice u (k * n) k)) (u % 2 ^ (k * n)) v
    rw [pair_pair_bitSlice, ← Nat.mul_succ] at hquot hrem
    rw [quoRemNarrow, divK_of_lt _ _ hr, ok_bind, ih (Nat.mod_lt _ hv), ok_bind, ← hquot, ← hrem,
      Nat.add_comm (_ * _)]
    rfl

theorem quoRemHalf_eq {k u : Nat} (v : Nat) (hu : u < 2 ^ (2 * k)) :
    quoRemHalf k u v = if v = 0 then .error .divideByZero else .ok (u / v, u % v) := by
  obtain rfl | hv := Nat.eq_zero_or_pos v
  · rfl
  · rw [quoRemHalf, if_neg hv.ne']
    by_cases hlt : hiHalf k u < v
    · rw [if_pos hlt, divK_of_lt _ _ hlt, pair_halves hu]
    · have hfirst : pair k 0 (hiHalf k u) = hiHalf k u := by simp [pair]
      rw [if_neg hlt, divK_of_lt _ _ hv, hfirst, ok_bind, divK_of_lt _ _ (Nat.mod_lt _ hv), ok_bind,
        pair_div _ _ _ _ hv, pair_mod, pair_halves hu]

/-- Settles O55: both are long division, in two digits and in `n`; a zero divisor fails at the first digit. -/
theorem narrowDividersComputeTheQuotient : Obligations.NarrowDividersComputeTheQuotient := by
  refine ⟨fun k u v hu _ => quoRemHalf_eq v hu, fun k n u v hn hu _ => ?_⟩
  obtain rfl | hv := Nat.eq_zero_or_pos v
  · obtain ⟨m, rfl⟩ := Nat.exists_eq_succ_of_ne_zero hn.ne'
    rfl
  · rw [quoRemNarrow_of_lt _ _ _ hv, if_neg hv.ne', Nat.mod_eq_of_lt hu, pair, Nat.zero_mul, Nat.add_zero]

/-! ### Normalised divisors -/

theorem len_of_pos {x : Nat} (hx : 0 < x) : len x = Nat.log2 x + 1 := if_neg hx.ne'

/-- Shifting out the leading zeros puts the top bit of a number at the top of its width. -/
theorem normalised {k x : Nat} (hpos : 0 < x) (hx : x < 2 ^ k) :
    x * 2 ^ lz k x < 2 ^ k ∧ 2 ^ k ≤ 2 * (x * 2 ^ lz k x) := by
  have hlog : Nat.log2 x < k := (Nat.log2_lt hpos.ne').2 hx
  obtain ⟨m, rfl⟩ := Nat.exists_eq_add_of_le hlog
  have hlz : lz ((Nat.log2 x).succ + m) x = m := by
    rw [lz, len_of_pos hpos]
    omega
  rw [hlz, Nat.pow_add, ← Nat.mul_assoc, Nat.pow_succ']
  exact ⟨Nat.mul_lt_mul_of_pos_right (Nat.pow_succ' ▸ Nat.lt_log2_self) (Nat.two_pow_pos m),
    Nat.mul_le_mul_right _ (Nat.mul_le_mul_left 2 (Nat.log2_self_le hpos.ne'))⟩

theorem lz_lt {k x : Nat} (hk : 0 < k) (hpos : 0 < x) : lz k x < k := by
  rw [lz, len_of_pos hpos]
  omega

/-- The high half of a normalised number is not 0. -/
theorem pos_of_two_pow_le {k d : Nat} (h : 2 ^ k ≤ 2 * d) : 0 < d := Nat.pos_of_mul_pos_left ((Nat.two_pow_pos k).trans_le h)

theorem pos_of_hiHalf_pos {k v : Nat} (hhi : 0 < hiHalf k v) : 0 < v := by
  rw [Nat.pos_iff_ne_zero]
  rintro rfl
  exact hhi.ne' (hiHalf_of_lt (Nat.two_pow_pos k))

section
variable {k v : Nat} (hv : v < 2 ^ (2 * k))
include hv

theorem hiHalf_eq_div : hiHalf k v = v / 2 ^ k := by
  rw [hiHalf, bitSlice, Nat.mod_eq_of_lt (Nat.div_lt_of_lt_mul (by rwa [← Nat.pow_add, ← Nat.two_mul]))]

/-- The leading zeros of a number of two halves are those of its high half, unless that is 0. -/
theorem lz_hiHalf (hhi : 0 < hiHalf k v) : lz k (hiHalf k v) = lz (2 * k) v := by
  have hpos := pos_of_hiHalf_pos hhi
  have hlow : k ≤ Nat.log2 v := by
    rw [Nat.le_log2 hpos.ne']
    exact Nat.not_lt.1 (mt (hiHalf_eq_zero_iff hv).2 hhi.ne')
  rw [lz, lz, len_of_pos hhi, len_of_pos hpos, hiHalf_eq_div hv, Nat.log2_eq_log_two, Nat.log_div_base_pow,
    ← Nat.log2_eq_log_two]
  omega

/-- The high half of a normalised number is normalised (R231). -/
theorem two_pow_le_hiHalf (hk : 0 < k) (hnorm : 2 ^ (2 * k) ≤ 2 * v) : 2 ^ k ≤ 2 * hiHalf k v := by
  obtain ⟨m, rfl⟩ := Nat.exists_eq_succ_of_ne_zero hk.ne'
  have hquot : 2 ^ m ≤ v / 2 ^ (m + 1) := by
    rw [Nat.le_div_iff_mul_le (Nat.two_pow_pos _)]
    refine Nat.le_of_mul_le_mul_left ?_ Nat.two_pos
    calc 2 * (2 ^ m * 2 ^ (m + 1))
      _ = 2 ^ (2 * (m + 1)) := by ring
      _ ≤ 2 * v := hnorm
  calc 2 ^ (m + 1)
    _ = 2 * 2 ^ m := Nat.pow_succ'
    _ ≤ 2 * hiHalf (m + 1) v := Nat.mul_le_mul_left 2 (hiHalf_eq_div hv ▸ hquot)

/-- The high half of half a number is below a normalised divisor (R231). -/
theorem hiHalf_half_lt {d : Nat} (hd : 2 ^ k ≤ 2 * d) : hiHalf k (v / 2) < d := by
  rw [hiHalf_eq_div ((Nat.div_le_self v 2).trans_lt hv)]
  apply Nat.div_lt_of_lt_mul
  apply Nat.div_lt_of_lt_mul
  calc v
    _ < 2 ^ (2 * k) := hv
    _ = 2 ^ k * 2 ^ k := by ring
    _ ≤ 2 ^ k * (2 * d) := Nat.mul_le_mul_left _ hd
    _ = 2 * (2 ^ k * d) := by ring

end

/-! ### The full-width divider -/

/-- Clearing the low bits of the divisor raises the quotient by at most one, when the dividend is below `(a * c) ^ 2` and the
cleared divisor reaches `a * c ^ 2`: what was cleared, once for each unit of the quotient and once more, is at most what is left. -/
theorem div_cleared_le {a c d u v : Nat} (hc : 0 < c) (hu : u < (a * c) ^ 2) (hd : a * c ≤ 2 * d) (hpos : 0 < d)
    (hv : v / (2 * c) = d) : u / v ≤ u / (2 * d * c) ∧ u / (2 * d * c) ≤ u / v + 1 := by
  have hsplit : 2 * d * c + v % (2 * c) = v := by
    rw [← hv, Nat.mul_right_comm, Nat.div_add_mod]
  have hcleared : 0 < 2 * d * c := by positivity
  have hle : 2 * d * c ≤ v := Nat.le.intro hsplit
  have htop : a * c * c ≤ 2 * d * c := Nat.mul_le_mul_right c hd
  have hquot : u / v < a := by
    apply Nat.lt_of_mul_lt_mul_right (a := a * c * c)
    calc u / v * (a * c * c)
      _ ≤ u / v * v := Nat.mul_le_mul_left _ (htop.trans hle)
      _ ≤ u := Nat.div_mul_le_self u v
      _ < (a * c) ^ 2 := hu
      _ = a * (a * c * c) := by ring
  have hexcess : (u / v + 1) * (v % (2 * c)) ≤ 2 * d * c := by
    have hmod : v % (2 * c) + 1 ≤ 2 * c := Nat.mod_lt v (by omega)
    have hsquare : 2 * c ≤ c * c + 1 := by nlinarith
    calc (u / v + 1) * (v % (2 * c))
      _ ≤ a * (v % (2 * c)) := Nat.mul_le_mul_right _ hquot
      _ ≤ a * (c * c) := Nat.mul_le_mul_left a (by omega)
      _ = a * c * c := by ring
      _ ≤ 2 * d * c := htop
  refine ⟨Nat.div_le_div_left hle hcleared, Nat.le_of_lt_succ ((Nat.div_lt_iff_lt_mul hcleared).2 ?_)⟩
  calc u
    _ < (u / v + 1) * v := Nat.lt_mul_of_div_lt (Nat.lt_succ_self _) (hcleared.trans_le hle)
    _ = (u / v + 1) * (2 * d * c) + (u / v + 1) * (v % (2 * c)) := by rw [← Nat.mul_add, hsplit]
    _ ≤ (u / v + 1) * (2 * d * c) + 2 * d * c := Nat.add_le_add_left hexcess _
    _ = (u / v + 1 + 1) * (2 * d * c) := (Nat.succ_mul ..).symm

theorem trunc_of_lt {k n : Nat} (h : n < 2 ^ k) : trunc k n = n := Nat.mod_eq_of_lt h

theorem truncInt_add_mul {k n : Nat} (h : n < 2 ^ k) (m : Int) : truncInt k (n + 2 ^ k * m) = n := by
  zify at h ⊢
  rw [natCast_truncInt, Int.add_mul_emod_self_left, Int.emod_eq_of_lt (by omega) h]

theorem truncInt_of_lt {k n : Nat} (h : n < 2 ^ k) : truncInt k n = n := by simpa using truncInt_add_mul h 0

/-- A quotient that may be one short is put right by one correction (R226). -/
theorem correct_once {w u v q : Nat} (hu : u < 2 ^ w) (hle : q ≤ u / v) (hshort : u / v ≤ q + 1) (hv : 0 < v) :
    (if truncInt w ((u : Int) - trunc w (v * q)) ≥ v then
        (q + 1, truncInt w ((u : Int) - trunc w (v * q)) - v)
      else (q, truncInt w ((u : Int) - trunc w (v * q)))) = (u / v, u % v) := by
  have hmul : v * q ≤ u := (Nat.mul_le_mul_left v hle).trans (Nat.mul_div_le u v)
  have hrem : truncInt w ((u : Int) - trunc w (v * q)) = u - v * q := by
    rw [trunc_of_lt (hmul.trans_lt hu), ← Nat.cast_sub hmul, truncInt_of_lt ((Nat.sub_le ..).trans_lt hu)]
  have hdiv := Nat.div_add_mod u v
  have hmod := Nat.mod_lt u hv
  rw [hrem]
  obtain heq | heq : u / v = q ∨ u / v = q + 1 := by omega
  · rw [heq] at hdiv ⊢
    rw [if_neg (by omega)]
    exact congrArg (q, ·) (by omega)
  · rw [heq, Nat.mul_succ] at hdiv
    rw [heq, if_pos (by omega)]
    exact congrArg (q + 1, ·) (by omega)

/-- The trial quotient divides by the divisor with the bits below its top `k` cleared: it is the quotient or one more (R226). -/
theorem trial_quotient_bounds {k n u v : Nat} (hn : n < k) (hu : u < 2 ^ (2 * k)) (hv : v * 2 ^ n < 2 ^ (2 * k))
    (hd : 2 ^ k ≤ 2 * hiHalf k (v * 2 ^ n)) :
    u / v ≤ u / 2 / hiHalf k (v * 2 ^ n) / 2 ^ (k - 1 - n) ∧
      u / 2 / hiHalf k (v * 2 ^ n) / 2 ^ (k - 1 - n) ≤ u / v + 1 := by
  obtain ⟨j, rfl⟩ := Nat.exists_eq_add_of_lt hn
  have hshift : n + j + 1 - 1 - n = j := by omega
  have hpow : 2 ^ (n + j + 1) = 2 ^ (n + 1) * 2 ^ j := by ring
  have hcleared : v / (2 * 2 ^ j) = hiHalf (n + j + 1) (v * 2 ^ n) := by
    have hunshift : 2 ^ (n + j + 1) = 2 * 2 ^ j * 2 ^ n := by ring
    rw [hiHalf_eq_div hv, hunshift, Nat.mul_div_mul_right _ _ (Nat.two_pow_pos n)]
  rw [Nat.mul_comm, Nat.pow_mul, hpow] at hu
  rw [hshift, Nat.div_div_eq_div_mul, Nat.div_div_eq_div_mul, ← Nat.mul_assoc]
  exact div_cleared_le (Nat.two_pow_pos j) hu (hpow ▸ hd) (pos_of_two_pow_le hd) hcleared

theorem quoRemFull_eq {k u v : Nat} (hk : 0 < k) (hu : u < 2 ^ (2 * k)) (hv : v < 2 ^ (2 * k)) :
    quoRemFull k u v = if v = 0 then .error .divideByZero else .ok (u / v, u % v) := by
  by_cases hhi : hiHalf k v = 0
  · rw [quoRemFull, if_pos hhi, loHalf_of_lt ((hiHalf_eq_zero_iff hv).1 hhi), quoRemHalf_eq v hu]
  · have hhi' := Nat.pos_of_ne_zero hhi
    have hpos := pos_of_hiHalf_pos hhi'
    have hu1 : u / 2 < 2 ^ (2 * k) := (Nat.div_le_self u 2).trans_lt hu
    obtain ⟨hlt, hnorm⟩ := normalised hpos hv
    rw [← lz_hiHalf hv hhi'] at hlt hnorm
    have hd := two_pow_le_hiHalf hlt hk hnorm
    obtain ⟨hle, hover⟩ := trial_quotient_bounds (lz_lt hk hhi') hu hlt hd
    have hdecrement (q : Nat) : (if q ≠ 0 then q - 1 else q) = q - 1 := by split <;> omega
    simp only [quoRemFull, if_neg hhi, if_neg hpos.ne', trunc_of_lt hlt, divK_of_lt _ _ (hiHalf_half_lt hu hd),
      pair_halves hu1, ok_bind, hdecrement]
    rw [← apply_ite Except.ok, correct_once hu (Nat.sub_le_of_le_add hover) (hle.trans le_tsub_add) hpos]

/-- Settles O56: the trial quotient, less one, is the quotient or one short of it. -/
theorem fullDividerComputesTheQuotient : Obligations.FullDividerComputesTheQuotient := fun _ _ _ => quoRemFull_eq

/-! ### The widening divider

One digit of the quotient by the divisor `pair k y1 y0`: what is left of the dividend is `U`, the next digit down `x`. -/

section
variable {k y1 y0 U x : Nat} (hU : U < pair k y1 y0) (hx : x < 2 ^ k)

theorem mul_pair (k q y1 y0 : Nat) : q * pair k y1 y0 = q * y0 + q * y1 * 2 ^ k := by
  rw [pair]
  ring

/-- Taking `q` times the high digit off the dividend leaves `rhat`, so `q` is too large exactly when its product with the low
digit does not fit what is left: the test of R229. -/
theorem pair_lt_mul_iff {q rhat : Nat} (hsplit : q * y1 + rhat = U) :
    pair k U x < q * pair k y1 y0 ↔ pair k rhat x < q * y0 := by
  have hdividend : pair k U x = pair k rhat x + q * y1 * 2 ^ k := by
    rw [← hsplit, pair, pair]
    ring
  rw [hdividend, mul_pair, Nat.add_lt_add_iff_right]

include hU

theorem div_lt_iff_pair_lt {q rhat : Nat} (hsplit : q * y1 + rhat = U) :
    pair k U x / pair k y1 y0 < q ↔ pair k rhat x < q * y0 := by
  rw [Nat.div_lt_iff_lt_mul (Nat.zero_lt_of_lt hU), pair_lt_mul_iff hsplit]

include hx

/-- The loop's test holds exactly of a digit above the true one, which has one half only. -/
theorem correction_test_iff {q rhat : Nat} (hsplit : q * y1 + rhat = U) :
    q / 2 ^ k ≠ 0 ∨ q * y0 > pair k rhat x ↔ pair k U x / pair k y1 y0 < q := by
  rw [div_lt_iff_pair_lt hU hsplit]
  refine ⟨?_, .inr⟩
  rintro (hwide | hover)
  · rw [← div_lt_iff_pair_lt hU hsplit]
    exact (pair_div_lt hx hU).trans_le (Nat.le_of_not_lt fun h => hwide (Nat.div_eq_of_lt h))
  · exact hover

/-- The loop lowers a digit to the true one when it starts at most two above it and has the fuel: `rhat` leaves its half only
when the digit is right (R229). -/
theorem correctDigit_eq_div (hy0 : y0 < 2 ^ k) {fuel q rhat : Nat} (hsplit : q * y1 + rhat = U)
    (hle : pair k U x / pair k y1 y0 ≤ q) (htwo : q ≤ pair k U x / pair k y1 y0 + 2)
    (hfuel : q ≤ pair k U x / pair k y1 y0 + fuel) :
    correctDigit k y1 y0 x fuel q rhat = pair k U x / pair k y1 y0 := by
  induction fuel generalizing q rhat with
  | zero => exact Nat.le_antisymm hfuel hle
  | succ fuel ih =>
    simp only [correctDigit, correction_test_iff hU hx hsplit]
    split
    next hover =>
      obtain ⟨p, rfl⟩ := Nat.exists_eq_succ_of_ne_zero (Nat.ne_zero_of_lt hover)
      have hnext : p * y1 + (rhat + y1) = U := by
        rw [← hsplit, Nat.succ_mul]
        ring
      split
      next hstop =>
        have hdigit := pair_div_lt hx hU
        have hfits : p * y0 ≤ pair k (rhat + y1) x := by
          calc p * y0
            _ ≤ 2 ^ k * 2 ^ k := Nat.mul_le_mul (by omega) hy0.le
            _ ≤ (rhat + y1) * 2 ^ k := Nat.mul_le_mul_right _ hstop
            _ ≤ pair k (rhat + y1) x := Nat.le_add_left ..
        have hright := mt (div_lt_iff_pair_lt hU hnext).1 (Nat.not_lt.2 hfits)
        exact Nat.le_antisymm (Nat.not_lt.1 hright) (Nat.le_of_lt_succ hover)
      next => exact ih hnext (Nat.le_of_lt_succ hover) (by omega) (by omega)
    next hright => exact Nat.le_antisymm (Nat.not_lt.1 hright) hle

omit hU in
/-- The trial digit, by the high digit of the divisor alone, is never below the true one. -/
theorem div_le_trial (hy1 : 0 < y1) : pair k U x / pair k y1 y0 ≤ U / y1 := by
  rw [Nat.le_div_iff_mul_le hy1]
  apply Nat.le_of_lt_succ
  apply Nat.lt_of_mul_lt_mul_right (a := 2 ^ k)
  calc pair k U x / pair k y1 y0 * y1 * 2 ^ k
    _ ≤ pair k U x / pair k y1 y0 * pair k y1 y0 := by
      rw [Nat.mul_assoc]
      exact Nat.mul_le_mul_left _ (Nat.le_add_left ..)
    _ ≤ pair k U x := Nat.div_mul_le_self ..
    _ < 2 ^ k + U * 2 ^ k := Nat.add_lt_add_right hx _
    _ = (U + 1) * 2 ^ k := by ring

/-- With a normalised divisor the trial digit is at most two above the true one: the bound R230 observed. -/
theorem trial_le_div_add_two (hy0 : y0 < 2 ^ k) (hnorm : 2 ^ k ≤ 2 * y1) :
    U / y1 ≤ pair k U x / pair k y1 y0 + 2 := by
  apply Nat.le_of_lt_succ
  rw [Nat.div_lt_iff_lt_mul (pos_of_two_pow_le hnorm)]
  apply Nat.lt_of_mul_lt_mul_right (a := 2 ^ k)
  calc U * 2 ^ k
    _ ≤ pair k U x := Nat.le_add_left ..
    _ < (pair k U x / pair k y1 y0 + 1) * pair k y1 y0 := Nat.lt_mul_of_div_lt (Nat.lt_succ_self _) (Nat.zero_lt_of_lt hU)
    _ = (pair k U x / pair k y1 y0 + 1) * y0 + (pair k U x / pair k y1 y0 + 1) * y1 * 2 ^ k := mul_pair ..
    _ ≤ 2 ^ k * 2 ^ k + (pair k U x / pair k y1 y0 + 1) * y1 * 2 ^ k :=
      Nat.add_le_add_right (Nat.mul_le_mul (pair_div_lt hx hU) hy0.le) _
    _ ≤ 2 * y1 * 2 ^ k + (pair k U x / pair k y1 y0 + 1) * y1 * 2 ^ k :=
      Nat.add_le_add_right (Nat.mul_le_mul_right _ hnorm) _
    _ = (pair k U x / pair k y1 y0 + 2 + 1) * y1 * 2 ^ k := by ring

end

section
variable {k D U : Nat} (hk : 0 < k) (hnorm : 2 ^ (2 * k) ≤ 2 * D) (hD : D < 2 ^ (2 * k)) (hU : U < D)
include hk hnorm hD hU

/-- The trial division never fails: its divisor is the high half of a normalised number (R231). -/
theorem quoRemHalf_normalised : quoRemHalf k U (hiHalf k D) = .ok (U / hiHalf k D, U % hiHalf k D) := by
  rw [quoRemHalf_eq _ (hU.trans hD), if_neg (pos_of_two_pow_le (two_pow_le_hiHalf hD hk hnorm)).ne']

/-- The digit of R229 for a normalised divisor is the quotient, whatever fuel of two or more it has. -/
theorem correctDigit_trial {x fuel : Nat} (hx : x < 2 ^ k) (hfuel : 2 ≤ fuel) :
    correctDigit k (hiHalf k D) (loHalf k D) x fuel (U / hiHalf k D) (U % hiHalf k D) = pair k U x / D := by
  have hhi := two_pow_le_hiHalf hD hk hnorm
  have hlo := loHalf_lt k D
  have hU' : U < pair k (hiHalf k D) (loHalf k D) := by rwa [pair_halves hD]
  have htwo := trial_le_div_add_two hU' hx hlo hhi
  have hcorrect := correctDigit_eq_div hU' hx hlo (Nat.div_add_mod' U _) (div_le_trial hx (pos_of_two_pow_le hhi)) htwo
    (htwo.trans (Nat.add_le_add_left hfuel _))
  rwa [pair_halves hD] at hcorrect

end

/-- What the digit leaves of the dividend, computed at the width of the divisor: the bits above it cancel (R229). -/
theorem truncInt_digit_remainder {k y : Nat} (hy : y < 2 ^ (2 * k)) (hpos : 0 < y) (U x : Nat) :
    truncInt (2 * k) ((pair k (loHalf k U) x : Int) - trunc (2 * k) (pair k U x / y * y)) = pair k U x % y := by
  have hdividend : pair k U x = pair k (loHalf k U) x + 2 ^ (2 * k) * (U / 2 ^ k) := by
    nth_rw 1 [pair, pair, ← Nat.div_add_mod U (2 ^ k), loHalf, bitSlice_zero]
    ring
  have hproduct := Nat.div_add_mod (pair k U x / y * y) (2 ^ (2 * k))
  have hdivision := Nat.div_add_mod' (pair k U x) y
  have hdiff : (pair k (loHalf k U) x : Int) - trunc (2 * k) (pair k U x / y * y) = ((pair k U x % y : Nat) : Int) +
      2 ^ (2 * k) * ((pair k U x / y * y / 2 ^ (2 * k) : Nat) - (U / 2 ^ k : Nat)) := by
    rw [trunc]
    zify at hdividend hproduct hdivision ⊢
    linear_combination -hproduct - hdividend - hdivision
  rw [hdiff, truncInt_add_mul ((Nat.mod_lt _ hpos).trans hy)]

/-- The normalised dividend, in two parts of two digits: the bits shifted out of the low part come into the high one (R229). -/
theorem pair_normalised {w s hi lo : Nat} (hs : s ≤ w) (hlo : lo < 2 ^ w) (hhi : hi * 2 ^ s < 2 ^ w) :
    pair w (trunc w (hi * 2 ^ s) ||| lo / 2 ^ (w - s)) (trunc w (lo * 2 ^ s)) = pair w hi lo * 2 ^ s := by
  obtain ⟨t, rfl⟩ := Nat.exists_eq_add_of_le hs
  have hcarry : lo / 2 ^ t < 2 ^ s := Nat.div_lt_of_lt_mul (by rwa [← Nat.pow_add, Nat.add_comm t])
  have hkept : trunc (s + t) (lo * 2 ^ s) = lo % 2 ^ t * 2 ^ s := by
    rw [trunc, Nat.pow_add, Nat.mul_comm (2 ^ s), Nat.mul_mod_mul_right]
  rw [trunc_of_lt hhi, hkept, Nat.add_sub_cancel_left, Nat.mul_comm hi, ← Nat.two_pow_add_eq_or_of_lt hcarry, pair, pair]
  nth_rw 3 [← Nat.div_add_mod lo (2 ^ t)]
  ring

/-- The last two digits of a dividend, one under the other. -/
theorem pair_pair_halves {k x : Nat} (hx : x < 2 ^ (2 * k)) (r : Nat) :
    pair k (pair k r (hiHalf k x)) (loHalf k x) = pair (2 * k) r x := by
  nth_rw 3 [← pair_halves hx]
  simp only [pair]
  ring

/-- The high part of the normalised dividend stays below the normalised divisor, so its quotient still fits. -/
theorem normalised_high_lt {w s hi lo y : Nat} (hs : s ≤ w) (hlo : lo < 2 ^ w) (hlt : hi < y) (hy : y * 2 ^ s < 2 ^ w) :
    trunc w (hi * 2 ^ s) ||| lo / 2 ^ (w - s) < y * 2 ^ s := by
  have hscale := Nat.two_pow_pos s
  have hquot : pair w hi lo < 2 ^ w * y := (Nat.div_lt_iff_lt_mul (Nat.zero_lt_of_lt hlt)).1 (pair_div_lt hlo hlt)
  apply Nat.lt_of_mul_lt_mul_right (a := 2 ^ w)
  calc (trunc w (hi * 2 ^ s) ||| lo / 2 ^ (w - s)) * 2 ^ w
    _ ≤ pair w (trunc w (hi * 2 ^ s) ||| lo / 2 ^ (w - s)) (trunc w (lo * 2 ^ s)) := Nat.le_add_left ..
    _ = pair w hi lo * 2 ^ s := pair_normalised hs hlo ((Nat.mul_lt_mul_of_pos_right hlt hscale).trans hy)
    _ < 2 ^ w * y * 2 ^ s := Nat.mul_lt_mul_of_pos_right hquot hscale
    _ = y * 2 ^ s * 2 ^ w := by ring

theorem widenDiv_eq {k fuel hi lo y : Nat} (hk : 0 < k) (hfuel : 2 ≤ fuel) (hlo : lo < 2 ^ (2 * k)) (hy : y < 2 ^ (2 * k))
    (hlt : hi < y) : widenDiv k fuel hi lo y = .ok (pair (2 * k) hi lo / y, pair (2 * k) hi lo % y) := by
  obtain ⟨hD, hnorm⟩ := normalised (Nat.zero_lt_of_lt hlt) hy
  have hs : lz (2 * k) y ≤ 2 * k := Nat.sub_le ..
  rw [widenDiv]
  generalize lz (2 * k) y = s at *
  have hscale := Nat.two_pow_pos s
  have hpos : 0 < y * 2 ^ s := Nat.mul_pos (Nat.zero_lt_of_lt hlt) hscale
  have hpair := pair_normalised hs hlo ((Nat.mul_lt_mul_of_pos_right hlt hscale).trans hD)
  have hU := normalised_high_lt hs hlo hlt hD
  have hL : trunc (2 * k) (lo * 2 ^ s) < 2 ^ (2 * k) := Nat.mod_lt _ (Nat.two_pow_pos _)
  simp only [trunc_of_lt hD]
  generalize trunc (2 * k) (hi * 2 ^ s) ||| lo / 2 ^ (2 * k - s) = U at *
  generalize trunc (2 * k) (lo * 2 ^ s) = L at *
  have hr : pair k U (hiHalf k L) % (y * 2 ^ s) < y * 2 ^ s := Nat.mod_lt _ hpos
  have hq1 := pair_div_lt (hiHalf_lt k L) hU
  have hq0 := pair_div_lt (loHalf_lt k L) hr
  simp only [quoRemHalf_normalised hk hnorm hD hU, quoRemHalf_normalised hk hnorm hD hr, ok_bind,
    correctDigit_trial hk hnorm hD hU (hiHalf_lt k L) hfuel, correctDigit_trial hk hnorm hD hr (loHalf_lt k L) hfuel,
    truncInt_digit_remainder hD hpos, loHalf_of_lt hq1, loHalf_of_lt hq0]
  rw [pair_div _ _ _ _ hpos, pair_mod, pair_pair_halves hL, hpair, Nat.mul_div_mul_right _ _ hscale,
    Nat.mul_mod_mul_right, Nat.mul_div_cancel _ hscale]

/-- Settles O57: each digit is corrected to the true one, and the remainder of the first goes above the second. -/
theorem wideningDividerComputesTheQuotient : Obligations.WideningDividerComputesTheQuotient :=
  fun _ _ _ _ _ => widenDiv_eq

end Sys2Proof.Machine
end

section
/-! SUPPORT. O37, O51 and O58. A right shift starts a slice further up, a left shift puts zeros below, and the two-word funnel of R252
is a slice of 64 bits across two neighbouring limbs (`funnel_eq_bitSlice`): each limb it builds is one of the shifted value. -/

namespace Sys2Proof.Machine

open Sys2Proof.Safety

/-! ### The commands -/

/-- LSH's two branches agree (R250). -/
theorem shiftLeft_eq_mod (k u n : Nat) : (if n < k then trunc k (u * 2 ^ n) else 0) = u * 2 ^ n % 2 ^ k := by
  split
  next => rfl
  next h => exact (Nat.mod_eq_zero_of_dvd (Dvd.dvd.mul_left (Nat.pow_dvd_pow 2 (Nat.le_of_not_lt h)) u)).symm

/-- RSH's two branches agree (R251). -/
theorem shiftRight_eq_div {k u : Nat} (n : Nat) (hu : u < 2 ^ k) : (if n < k then u / 2 ^ n else 0) = u / 2 ^ n := by
  split
  next => rfl
  next h => exact (Nat.div_eq_of_lt (hu.trans_le (Nat.pow_le_pow_right (by decide) (Nat.le_of_not_lt h)))).symm

/-- Settles O37: from W up the power is a multiple of 2^W, and greater than V[ra]. -/
theorem shiftLaws : Obligations.ShiftLaws := by
  intro s rd ra rb
  refine ⟨isCommand_wordOf (.lsh rd ra rb), isCommand_wordOf (.rsh rd ra rb), ?_, ?_⟩
  · rw [exec, execLsh, shiftLeft_eq_mod]
    exact retireV_completes_of_lt rd (Nat.mod_lt _ (Nat.two_pow_pos _))
  · rw [exec, execRsh, State.full, shiftRight_eq_div _ (s.vreg_lt ra)]
    exact retireV_completes_of_lt rd ((Nat.div_le_self ..).trans_lt (s.vreg_lt ra))

/-! ### Shifting there and back -/

theorem sreg_of_completes {vs ss : List Reg} {s t : State} (h : Completes vs ss s t) {r : Reg} (hr : r ∉ ss) :
    t.sreg r = s.sreg r := by
  obtain ⟨-, -, -, -, -, hframe, -⟩ := h
  exact (hframe r hr).1

section
variable (k u n : Nat)

/-- Bit `i` goes up to `n + i`, where it is lost from `k` up, and comes back (R253). -/
theorem shiftLeft_shiftRight_eq_and : u * 2 ^ n % 2 ^ k / 2 ^ n = u &&& maxOf k / 2 ^ n := by
  apply Nat.eq_of_testBit_eq
  intro i
  simp [maxOf, Nat.testBit_div_two_pow, Nat.testBit_mod_two_pow, Nat.testBit_mul_two_pow, Nat.testBit_two_pow_sub_one,
    Bool.and_comm]

/-- A bit below `n` is lost, and every other one goes down and comes back (R253). -/
theorem shiftRight_shiftLeft_eq_and : u / 2 ^ n * 2 ^ n % 2 ^ k = u &&& maxOf k * 2 ^ n % 2 ^ k := by
  apply Nat.eq_of_testBit_eq
  intro i
  simp only [maxOf, Nat.testBit_and, Nat.testBit_mod_two_pow, Nat.testBit_mul_two_pow, Nat.testBit_div_two_pow,
    Nat.testBit_two_pow_sub_one]
  by_cases hkept : n ≤ i ∧ i < k
  · obtain ⟨hn, hk⟩ := hkept
    have hfrom : i - n < k := by omega
    simp [hn, hk, hfrom]
  · obtain hn | hk := not_and_or.1 hkept
    · simp [hn]
    · simp [hk]

end

/-- Settles O51: the first command leaves the amount alone, and the second shifts its result by the same amount. -/
theorem shiftRoundTrips : Obligations.ShiftRoundTrips := by
  intro s d a n _
  refine ⟨?_, ?_⟩
  · obtain ⟨-, -, ⟨t1, h1, hc1, -, hv1⟩, -⟩ := shiftLaws s d a n
    obtain ⟨-, -, -, t2, h2, -, -, hv2⟩ := shiftLaws t1 d d n
    refine ⟨t1, t2, h1, h2, ?_⟩
    rw [hv2, hv1, sreg_of_completes hc1 List.not_mem_nil, shiftLeft_shiftRight_eq_and]
  · obtain ⟨-, -, -, t1, h1, hc1, -, hv1⟩ := shiftLaws s d a n
    obtain ⟨-, -, ⟨t2, h2, -, -, hv2⟩, -⟩ := shiftLaws t1 d d n
    refine ⟨t1, t2, h1, h2, ?_⟩
    rw [hv2, hv1, sreg_of_completes hc1 List.not_mem_nil, bits_of_completes hc1, shiftRight_shiftLeft_eq_and]

/-! ### The word funnel -/

theorem fromLimbs_limbOf (l x : Nat) : fromLimbs l (limbOf x) = x % 2 ^ (64 * l) := by
  induction l with
  | zero => exact (Nat.mod_one x).symm
  | succ l ih => rw [fromLimbs, ih, limbOf, bitSlice, Nat.mul_succ, Nat.pow_add, Nat.mod_mul, Nat.mul_comm (2 ^ _)]

/-- A number of `l` limbs is 0 above them already. -/
theorem sourceLimb_eq_limbOf {l u : Nat} (hu : u < 2 ^ (64 * l)) (j : Nat) : sourceLimb l u j = limbOf u j := by
  rw [sourceLimb]
  split
  next => rfl
  next h =>
    have hle : 2 ^ (64 * l) ≤ 2 ^ (64 * j) := Nat.pow_le_pow_right (by decide) (by omega)
    rw [limbOf, bitSlice, Nat.div_eq_of_lt (hu.trans_le hle), Nat.zero_mod]

/-- A shift by whole limbs moves the limbs up and clears those below. -/
theorem limbOf_mul (u w j : Nat) : limbOf (u * 2 ^ (64 * w)) j = if w ≤ j then limbOf u (j - w) else 0 := by
  split
  next h =>
    obtain ⟨i, rfl⟩ := Nat.exists_eq_add_of_le h
    rw [← limbOf_div, Nat.mul_div_cancel _ (Nat.two_pow_pos _), Nat.add_sub_cancel_left]
  next h =>
    rw [← limbOf_mod _ (Nat.lt_of_not_le h), Nat.mul_mod_left]
    simp [limbOf, bitSlice]

/-- The two-word funnel (R252): `c` bits of the lower limb come in under the upper one. -/
theorem funnel_eq_bitSlice (x k : Nat) {c : Nat} (hc : c ≤ 64) :
    trunc 64 (limbOf x (k + 1) * 2 ^ c) ||| limbOf x k / 2 ^ (64 - c) = bitSlice x (64 * k + (64 - c)) 64 := by
  apply Nat.eq_of_testBit_eq
  intro i
  simp only [Nat.testBit_or, trunc, Nat.testBit_mod_two_pow, Nat.testBit_mul_two_pow, Nat.testBit_div_two_pow, limbOf,
    testBit_bitSlice]
  by_cases hi : i < 64
  · by_cases hci : c ≤ i
    · have hupper : 64 * (k + 1) + (i - c) = 64 * k + (64 - c) + i := by omega
      have habove : ¬ i + (64 - c) < 64 := by omega
      have hbelow : i - c < 64 := by omega
      simp [hi, hci, hupper, habove, hbelow]
    · have hlower : i + (64 - c) < 64 := by omega
      have hplace : 64 * k + (i + (64 - c)) = 64 * k + (64 - c) + i := by omega
      simp [hi, hci, hlower, hplace]
  · have habove : ¬ i + (64 - c) < 64 := by omega
    simp [hi, habove]

/-- The right shift of LSH's funnel is one by 64 at `b = 0`, and gives 0 there without the guard (R252). -/
theorem unguarded_div {x : Nat} (b : Nat) (hx : x < 2 ^ 64) :
    (if b = 0 then 0 else x / 2 ^ (64 - b)) = x / 2 ^ (64 - b) := by
  split
  next h => rw [h, Nat.div_eq_of_lt hx]
  next => rfl

/-- The left shift of RSH's funnel is one by 64 at `b = 0`, and gives 0 there without the guard (R252). -/
theorem unguarded_trunc (b x : Nat) :
    (if b = 0 then 0 else trunc 64 (x * 2 ^ (64 - b))) = trunc 64 (x * 2 ^ (64 - b)) := by
  split
  next h => rw [h, trunc, Nat.mul_mod_left]
  next => rfl

section
variable {l u : Nat} (hu : u < 2 ^ (64 * l)) (n : Nat)
include hu

/-- A limb of LSH: the funnel's two limbs are those of `u` shifted to the next whole limb, which is `64 - b` places too far. -/
theorem lshLimb_eq_limbOf : lshLimb l u n = limbOf (u * 2 ^ n) := by
  funext j
  have hlow : (if n / 64 ≤ j then limbOf u (j - n / 64) else 0) = limbOf (u * 2 ^ (64 * (n / 64 + 1))) (j + 1) := by
    simp [limbOf_mul]
  have hfar : u * 2 ^ (64 * (n / 64 + 1)) = u * 2 ^ n * 2 ^ (64 - n % 64) := by
    have hexp : 64 * (n / 64 + 1) = n + (64 - n % 64) := by omega
    rw [hexp, Nat.pow_add, Nat.mul_assoc]
  simp only [lshLimb, sourceLimb_eq_limbOf hu, Nat.sub_sub]
  rw [hlow, ← limbOf_mul, unguarded_div _ (limbOf_lt ..), funnel_eq_bitSlice _ _ (by omega), hfar, bitSlice, Nat.pow_add,
    Nat.mul_div_mul_right _ _ (Nat.two_pow_pos _), ← bitSlice, ← limbOf]

/-- A limb of RSH: the funnel takes `64 - b` bits of the lower limb, so its slice starts `b` bits into that one. -/
theorem rshLimb_eq_limbOf : rshLimb l u n = limbOf (u / 2 ^ n) := by
  funext j
  have hstart : 64 * (j + n / 64) + (64 - (64 - n % 64)) = n + 64 * j := by omega
  have hfunnel := funnel_eq_bitSlice u (j + n / 64) (Nat.sub_le 64 (n % 64))
  have hback : 64 - (64 - n % 64) = n % 64 := by omega
  rw [hstart, hback] at hfunnel
  simp only [rshLimb, sourceLimb_eq_limbOf hu]
  rw [unguarded_trunc, Nat.or_comm, hfunnel, bitSlice, Nat.pow_add, ← Nat.div_div_eq_div_mul, ← bitSlice, ← limbOf]

end

/-- Settles O58: the funnel's limbs are those of the shifted value, and a right shift needs no more limbs than `u`. -/
theorem wordFunnelComputesTheShift : Obligations.WordFunnelComputesTheShift := by
  intro l u n hu
  rw [lshLimb_eq_limbOf hu, rshLimb_eq_limbOf hu, fromLimbs_limbOf, fromLimbs_limbOf]
  exact ⟨rfl, Nat.mod_eq_of_lt ((Nat.div_le_self ..).trans_lt hu)⟩

end Sys2Proof.Machine
end

section
/-! SUPPORT. O38 to O40. The counts are said of the primitives of R14, each by recursion on the width, and every command of the family
that counts ends with a number of at most W. BIT reads the bit through its limb; REV and REVB reverse base-b digits. -/

namespace Sys2Proof.Machine

open Sys2Proof.Safety

/-! ### The length of a number -/

/-- The length of a number is at most `m` exactly when `m` bits hold it (R14). -/
theorem len_le_iff {x m : Nat} : len x ≤ m ↔ x < 2 ^ m := by
  obtain rfl | hx := Nat.eq_zero_or_pos x
  · simp [len]
  · rw [len_of_pos hx, Nat.succ_le_iff, Nat.log2_lt hx.ne']

theorem lt_two_pow_len (x : Nat) : x < 2 ^ len x := len_le_iff.1 le_rfl

/-! ### Trailing zeros -/

theorem tz_le (k x : Nat) : tz k x ≤ k := by
  induction k generalizing x with
  | zero => exact le_rfl
  | succ k ih =>
    rw [tz]
    split
    · exact Nat.zero_le _
    · exact Nat.succ_le_succ (ih _)

theorem tz_zero_right (k : Nat) : tz k 0 = k := by
  induction k with
  | zero => rfl
  | succ k ih => rw [tz, if_neg (by decide), Nat.zero_div, ih]

/-- Below `2^k` and not 0, a number has its last one bit at `tz`: that power of two divides it, and the next does not (R272). -/
theorem tz_spec {k x : Nat} (hx : x < 2 ^ k) (hpos : 0 < x) : 2 ^ tz k x ∣ x ∧ ¬ 2 ^ (tz k x + 1) ∣ x := by
  induction k generalizing x with
  | zero => omega
  | succ k ih =>
    rw [tz]
    split
    next hodd => exact ⟨one_dvd x, by omega⟩
    next heven =>
      obtain ⟨y, rfl⟩ : 2 ∣ x := by omega
      obtain ⟨hdvd, hnext⟩ := ih (x := y) (by omega) (by omega)
      rw [Nat.mul_div_cancel_left y Nat.two_pos, Nat.pow_succ', Nat.pow_succ' (n := tz k y + 1),
        Nat.mul_dvd_mul_iff_left Nat.two_pos, Nat.mul_dvd_mul_iff_left Nat.two_pos]
      exact ⟨hdvd, hnext⟩

/-! ### One bits -/

/-- `POP_k` counts the one bits below `k` (R273). -/
theorem pop_eq_countP (k x : Nat) : pop k x = (List.range k).countP fun i => x.testBit i := by
  induction k generalizing x with
  | zero => rfl
  | succ k ih =>
    have hrest : (fun i => x.testBit i) ∘ Nat.succ = fun i => (x / 2).testBit i := by
      funext i
      exact Nat.testBit_succ x i
    have hlow : x % 2 = if x.testBit 0 = true then 1 else 0 := by
      rw [Nat.testBit_zero]
      obtain h | h := Nat.mod_two_eq_zero_or_one x <;> simp [h]
    rw [pop, ih, List.range_succ_eq_map, List.countP_cons, List.countP_map, hrest, hlow, Nat.add_comm]

theorem pop_le (k x : Nat) : pop k x ≤ k := by
  rw [pop_eq_countP]
  exact List.countP_le_length.trans_eq List.length_range

/-! ### The commands that count -/

theorem countResult_toNat {n : Nat} (h : n < 2 ^ 64) : (countResult n).toNat = n := by
  rw [countResult, BitVec.toNat_ofNat, Nat.mod_eq_of_lt h]

/-- A command that counts up to W: a count fits the 64 bits of S[rd] (R95). -/
theorem retireS_countResult_completes {s : State} (rd : Reg) {n : Nat} (h : n ≤ s.bits) :
    ∃ t, s.retireS rd (countResult n) = .next t ∧ Completes [] [rd] s t ∧ t.cf = s.cf ∧ (t.sreg rd).toNat = n := by
  have hbits : s.bits < 2 ^ 64 := by obtain h | h := bits_eq s.width <;> rw [State.bits, h] <;> decide
  obtain ⟨t, ht, hc, hcf, hs⟩ := retireS_completes s rd (countResult n)
  exact ⟨t, ht, hc, hcf, hs ▸ countResult_toNat (h.trans_lt hbits)⟩

/-- Settles O38: BITLEN, CLZ, CTZ and POPCNT end with `len`, W less it, `tz` and `pop` of the whole operand. -/
theorem countCommands : Obligations.CountCommands := by
  intro s rd ra
  have hx := s.vreg_lt ra
  refine ⟨isCommand_wordOf (.bitLen rd ra), isCommand_wordOf (.clz rd ra), isCommand_wordOf (.ctz rd ra),
    isCommand_wordOf (.popcnt rd ra), ?_, ?_, ?_, ?_⟩
  · obtain ⟨t, ht, hc, hcf, hn⟩ := retireS_countResult_completes rd (len_le_iff.2 hx)
    refine ⟨t, ht, hc, hcf, ?_⟩
    rw [hn]
    exact ⟨lt_two_pow_len _, fun m => len_le_iff.2⟩
  · obtain ⟨t, ht, hc, hcf, hn⟩ := retireS_countResult_completes rd (Nat.sub_le s.bits (len (s.vreg ra)))
    refine ⟨t, len (s.vreg ra), ht, hc, hcf, lt_two_pow_len _, fun m => len_le_iff.2, ?_⟩
    rw [hn, Nat.sub_add_cancel (len_le_iff.2 hx)]
  · obtain ⟨t, ht, hc, hcf, hn⟩ := retireS_countResult_completes rd (tz_le s.bits (s.vreg ra))
    refine ⟨t, ht, hc, hcf, fun hzero => ?_, fun hne => ?_⟩
    · rw [hn, hzero, tz_zero_right]
    · rw [hn]
      exact tz_spec hx (Nat.pos_of_ne_zero hne)
  · rw [← pop_eq_countP]
    exact retireS_countResult_completes rd (pop_le s.bits (s.vreg ra))

/-! ### A bit by its index -/

theorem bitOf_eq_testBit (x i : Nat) : bitOf x i = if x.testBit i = true then 1 else 0 := by
  rw [bitOf, bitSlice, Nat.pow_one, ← Nat.toNat_testBit]
  cases x.testBit i <;> rfl

/-- Bit `i` of a register is bit `i % 64` of its limb `i / 64` (R274). -/
theorem bitOf_limbOf (x i : Nat) : bitOf (limbOf x (i / 64)) (i % 64) = bitOf x i := by
  rw [bitOf, limbOf, bitSlice_bitSlice (by omega), Nat.div_add_mod, bitOf]

/-- A command with one S destination, its result in another form. -/
theorem retireS_completes_of_eq (s : State) (rd : Reg) {x y : BitVec 64} (h : x = y) :
    ∃ t, s.retireS rd x = .next t ∧ Completes [] [rd] s t ∧ t.cf = s.cf ∧ t.sreg rd = y :=
  h ▸ retireS_completes s rd x

/-- Settles O39: inside [0, W) the bit is found in its limb, and any other index gives 0. -/
theorem bitCommand : Obligations.BitCommand := by
  intro s rd ra rb
  refine ⟨isCommand_wordOf (.bit rd ra rb), retireS_completes_of_eq s rd ?_⟩
  rw [bitOf_limbOf, bitOf_eq_testBit, State.bitIndex, State.full]
  split
  next hout => rw [if_neg (by omega)]
  next hin =>
    obtain ⟨hge, hlt⟩ : 0 ≤ (s.sreg rb).toInt ∧ (s.sreg rb).toInt < s.bits := by omega
    simp only [hge, hlt, true_and]
    split <;> rfl

/-! ### Reversal -/

theorem testBit_reverseBits {k i : Nat} (h : i < k) (x : Nat) : (reverseBits k x).testBit i = x.testBit (k - 1 - i) := by
  rw [Nat.testBit_eq_decide_div_mod_eq, Nat.testBit_eq_decide_div_mod_eq, reverseBits_eq_reverseDigits,
    digit_reverseDigits (by decide) h]

/-- A byte is a digit to base 256. -/
theorem byteOf_eq_digit (x b : Nat) : byteOf x b = x / 256 ^ b % 256 := by
  rw [byteOf, bitSlice, Nat.pow_mul]
  rfl

theorem byteOf_reverseBytes {n b : Nat} (h : b < n) (x : Nat) : byteOf (reverseBytes n x) b = byteOf x (n - 1 - b) := by
  rw [byteOf_eq_digit, byteOf_eq_digit, reverseBytes_eq_reverseDigits, digit_reverseDigits (by decide) h]

/-- Settles O40: a reversal takes digit `i` from the mirrored place, and its result fits W bits. -/
theorem reversalCommands : Obligations.ReversalCommands := by
  intro s rd ra
  refine ⟨isCommand_wordOf (.rev rd ra), isCommand_wordOf (.revB rd ra), ?_, ?_⟩
  · exact retireV_testBit_completes rd fun i hi => testBit_reverseBits hi (s.vreg ra)
  · have hfits : reverseBytes (s.bits / 8) (s.vreg ra) < 2 ^ s.bits := s.two_pow_bits_eq_bytes ▸ reverseBytes_lt _ _
    obtain ⟨t, ht, hc, hcf, hv⟩ := retireV_completes_of_lt rd hfits
    exact ⟨t, ht, hc, hcf, fun b hb => hv ▸ byteOf_reverseBytes hb _⟩

end Sys2Proof.Machine
end

section
/-! SUPPORT. O12, O15, O48 and O59. Where the core moves its step is one of two: an illegal value takes ILLEGAL_COMMAND, and a command
keeps the run's marks as its reads left them. In FAULTED the host moves, and no access changes the fault recorded. -/

namespace Sys2Proof.Machine

open Sys2Proof.Safety

/-! ### The core's move -/

section
variable {s : State} {c : BitVec 64} {k : Nat} (hr : s.run = .busy c k) (hk : k = 0 ∨ s.host = [])
include hr hk

/-- The core moves with no drawn poll left, or with no event of the host pending (log 4). -/
theorem step_of_core_moves : step s = coreStep c s := by
  obtain rfl | hn := hk
  · exact step_of_busy_zero hr
  · exact step_of_busy_nil hr hn

theorem step_of_decode_error {e : Illegal} (hd : decode s.width c = .error e) :
    ∃ t, step s = .next t ∧ Faults .illegalCommand s t := by
  have hcore : coreStep c s = s.takeFault .illegalCommand := by simp [coreStep, hd]
  rw [step_of_core_moves hr hk, hcore]
  exact takeFault_faults s .illegalCommand

end

theorem decode_error_of_illegalBecause {w : Width} {v : BitVec 64} {e : Illegal} (h : illegalBecause w v e) :
    ∃ e', decode w v = .error e' := by
  obtain ⟨e', hd, -⟩ | ⟨-, -, -, hnone⟩ := decode_cases w v
  · exact ⟨e', hd⟩
  · exact absurd h (hnone e)

/-- A fault taken from BUSY records its code and the value in flight (R306). -/
theorem fcmd_and_fc_of_faults {s t : State} {c : BitVec 64} {k : Nat} {code : FaultCode} (hr : s.run = .busy c k)
    (h : Faults code s t) : t.fcmd = c ∧ t.fc = code.number := by
  obtain ⟨-, hfc, -, -, hfcmd, -⟩ := h
  exact ⟨hfcmd c k hr, hfc⟩

/-- Settles O15: a value for which a condition holds does not decode, and fault entry records it. -/
theorem illegalCommandTakesTheFault : Obligations.IllegalCommandTakesTheFault := by
  rintro s c k hr hk ⟨e, he⟩
  obtain ⟨e', hd⟩ := decode_error_of_illegalBecause he
  obtain ⟨t, ht, hf⟩ := step_of_decode_error hr hk hd
  exact ⟨t, ht, hf, fcmd_and_fc_of_faults hr hf⟩

/-! ### The strict run -/

theorem exec_keepsRun (i : Instr) (s : State) : ∃ t, exec i s = .next t ∧ KeepsRun s t := by
  obtain ⟨t, ht, ⟨_, h⟩ | h⟩ := exec_faults_or_completes i s
  · exact ⟨t, ht, keepsRun_of_faults h⟩
  · exact ⟨t, ht, keepsRun_of_completes h⟩

/-- In the strict reading a step after which no mark stands is the step itself. -/
theorem strictStep_of_no_mark {s t : State} (h : step s = .next t) (hu : t.unwrittenMark = false)
    (hr : t.refusedMark = false) : strictStep s = .next t := by
  simp [strictStep, h, hu, hr]

/-- Reads that are all written leave the state as it is (R310). -/
theorem noteReads_of_readsWritten {i : Instr} {s : State} (h : ReadsWritten i s) : s.noteReads (sourcesOf i) = s := by
  have hall : (sourcesOf i).all s.sourceWritten = true := h
  simp [noteReads_eq, hall]

theorem noteReads_unwrittenMark_of_not_readsWritten {i : Instr} {s : State} (h : ¬ ReadsWritten i s) :
    (s.noteReads (sourcesOf i)).unwrittenMark = true := by
  have hall : (sourcesOf i).all s.sourceWritten = false := Bool.eq_false_iff.2 h
  simp [hall]

/-- Settles O48: a command leaves the mark its reads were noted with, and an illegal value is decoded before any read. -/
theorem unwrittenReadStopsTheStrictRun : Obligations.UnwrittenReadStopsTheStrictRun := by
  intro s c k hr hk hrefused hunwritten
  obtain ⟨hruns, -, -⟩ := stepRunsTheDecodedCommand
  refine ⟨fun i hd hnot => ?_, fun i hd hw => ?_, fun e hd => ?_⟩
  · obtain ⟨t, ht, -, -, hmark, -⟩ := exec_keepsRun i (s.noteReads (sourcesOf i))
    exact strictStep_of_unwrittenMark ((hruns s c k i hr hk hd).trans ht)
      (hmark.trans (noteReads_unwrittenMark_of_not_readsWritten hnot))
  · have hstep := hruns s c k i hr hk hd
    rw [noteReads_of_readsWritten hw] at hstep
    obtain ⟨t, ht, -, hr', hu', -⟩ := exec_keepsRun i s
    rw [ht]
    exact strictStep_of_no_mark (hstep.trans ht) (hu'.trans hunwritten) (hr'.trans hrefused)
  · obtain ⟨t, ht, hf⟩ := step_of_decode_error hr hk hd
    obtain ⟨-, hr', hu', -⟩ := keepsRun_of_faults hf
    exact ⟨t, strictStep_of_no_mark ht (hu'.trans hunwritten) (hr'.trans hrefused), hf⟩

/-! ### What a host write leaves -/

/-- No accepted write changes what the host has pending, the read record, FCMD, or a recorded fault. -/
theorem writeTarget_frame {s s' : State} {v : BitVec 64} {t : Target} (h : s.writeTarget v t = some s') :
    s'.host = s.host ∧ s'.busyAtLastRead = s.busyAtLastRead ∧ s'.fcmd = s.fcmd ∧
      ∀ code, s.run = .faulted code → s'.run = .faulted code := by
  cases t with
  | vLimb r j | sReg r | cr =>
    cases h
    exact ⟨rfl, rfl, rfl, fun _ => id⟩
  | cmd =>
    rw [State.writeTarget] at h
    split at h
    next hidle =>
      cases h
      exact ⟨rfl, rfl, rfl, fun _ hf => by cases hidle.symm.trans hf⟩
    all_goals
      cases h
      exact ⟨rfl, rfl, rfl, fun _ => id⟩
  | fcmd | id => cases h

theorem hostWrite_frame (s : State) (off size : Nat) (v : BitVec 64) :
    (s.hostWrite off size v).host = s.host ∧ (s.hostWrite off size v).busyAtLastRead = s.busyAtLastRead ∧
      (s.hostWrite off size v).fcmd = s.fcmd ∧
      ∀ code, s.run = .faulted code → (s.hostWrite off size v).run = .faulted code := by
  by_cases hr : IsRefused s (.write off size v)
  · rw [hostWrite_of_isRefused hr]
    exact ⟨rfl, rfl, rfl, fun _ => id⟩
  · obtain ⟨t, s', hs', hwrite⟩ := hostWrite_of_not_isRefused hr
    have hframe := writeTarget_frame hs'
    rw [hwrite]
    exact hframe

/-! ### FAULTED -/

/-- No host access clears or changes a recorded fault (R308). -/
theorem serve_keeps_fault {s : State} {code : FaultCode} (h : s.run = .faulted code) {e : HostEvent} (he : e ≠ .reset) :
    (s.serve e).run = .faulted code ∧ (s.serve e).fcmd = s.fcmd := by
  cases e with
  | read off size =>
    obtain ⟨-, -, -, hrun, hfcmd⟩ := hostRead_frame s off size
    exact ⟨hrun.trans h, hfcmd⟩
  | write off size v =>
    obtain ⟨-, -, hfcmd, hrun⟩ := hostWrite_frame s off size v
    exact ⟨hrun code h, hfcmd⟩
  | reset => exact absurd rfl he

theorem hostTurn_keeps_fault {s : State} {code : FaultCode} (h : s.run = .faulted code) :
    ((hostTurn s).run = .faulted code ∧ (hostTurn s).fcmd = s.fcmd) ∨ ∃ rest, s.host = .reset :: rest := by
  cases hh : s.host with
  | nil => exact .inl (by simp [hostTurn, hh, h])
  | cons e rest =>
    rw [hostTurn_cons hh]
    by_cases he : e = .reset
    · exact .inr ⟨rest, by rw [he]⟩
    · exact .inl (serve_keeps_fault (s := { s with host := rest }) h he)

theorem fc_of_run_faulted {s : State} {code : FaultCode} (h : s.run = .faulted code) : s.fc = code.number := by
  simp [State.fc, h]

theorem flt_of_run_faulted {s : State} {code : FaultCode} (h : s.run = .faulted code) : s.flt = true := by
  simp [State.flt, h]

/-- Settles O12: the host moves in FAULTED; each write is the accepted one of O6, O7 or O4, which needs BUSY = 0 alone. -/
theorem onlyResetLeavesFaulted : Obligations.OnlyResetLeavesFaulted := by
  intro s code hr
  have hb := busy_of_run_faulted hr
  have hstep := step_of_not_busy hb
  refine ⟨hostTurn s, hstep, ?_, fun r j v rest hj hh => ?_, fun r v rest hh => ?_, fun v rest hh => ?_⟩
  · obtain ⟨hrun, hfcmd⟩ | hreset := hostTurn_keeps_fault hr
    · exact .inl ⟨hrun, (fc_of_run_faulted hrun).trans (fc_of_run_faulted hr).symm, flt_of_run_faulted hrun, hfcmd⟩
    · exact .inr hreset
  · obtain ⟨t, ht, -, hlimb, -⟩ := (limbWindowAccess s r j rest hj hb).1 v hh
    cases hstep.symm.trans ht
    exact hlimb
  · obtain ⟨t, ht, -, hs, -⟩ := (sRegisterWindowAccess s r rest hb).1 v hh
    cases hstep.symm.trans ht
    exact hs
  · obtain ⟨t, ht, -, hcf, -⟩ := (controlRegisterAccess s rest).2 v hh hb
    cases hstep.symm.trans ht
    exact hcf

/-! ### The assembler's refusals -/

/-- Of operands in the right number the first of a wrong class is named (R93, R311). -/
theorem assemble_of_wrong_class {m : Mnemonic} {pre post : List AsmReg} {r : AsmReg}
    (hl : (pre ++ r :: post).length = m.classes.length) (hpre : pre.map AsmReg.cls = m.classes.take pre.length)
    (hr : m.classes[pre.length]? ≠ some r.cls) : assemble m (pre ++ r :: post) = .error (.wrongClass r) := by
  rw [assemble, if_pos hl, firstWrongClass_append _ _ _ _ hl hpre hr]

/-- The first refused line of a text is the one named, by its number (R311). -/
theorem assembleText_of_refused_line {before : List (List Char)} (after : List (List Char)) {line : List Char}
    {e : AsmError} (n : Nat) (hbefore : ∀ l ∈ before, ∃ i, assembleLine l = .ok i) (hline : assembleLine line = .error e) :
    assembleText n (before ++ line :: after) = .error (n + before.length, e) := by
  induction before generalizing n with
  | nil => simp [assembleText, hline]
  | cons l ls ih =>
    obtain ⟨⟨i, hi⟩, hls⟩ := List.forall_mem_cons.1 hbefore
    rw [List.cons_append, assembleText, hi, ih (n + 1) hls, List.length_cons]
    simp [Nat.add_assoc, Nat.add_comm 1]

/-- Settles O59: the five reasons, in the order in which the assembler asks for them. -/
theorem assemblerRefusesByNameAndLine : Obligations.AssemblerRefusesByNameAndLine := by
  refine ⟨fun m ops h => if_neg h, fun m pre post r => assemble_of_wrong_class, fun line h => ?_,
    fun line m pre post w hm hops hpre hw => ?_, fun n before after line e => assembleText_of_refused_line after n⟩
  · rw [assembleLine, h]
  · rw [assembleLine, hm, hops]
    simp only [parseRegs_append pre post w hpre hw]

end Sys2Proof.Machine
end

section
/-! SUPPORT. O2, O13 and O60. Either the core moves, or the host's oldest event is served, or nothing is to do
(`core_or_host_moves`): a core's step ends BUSY and keeps the read record, and an event served is gone from the list. -/

namespace Sys2Proof.Machine

open Sys2Proof.Safety

/-! ### Who moves -/

theorem core_or_host_moves (s : State) :
    (∃ c k, s.run = .busy c k ∧ (k = 0 ∨ s.host = [])) ∨ (∃ e rest, HostMoves s ∧ s.host = e :: rest) ∨
      (s.busy = false ∧ s.host = []) := by
  by_cases hm : HostMoves s
  · cases hh : s.host with
    | nil =>
      obtain hb | ⟨c, k, hr⟩ := hostMoves_cases hm
      · exact .inr (.inr ⟨hb, rfl⟩)
      · exact .inl ⟨c, k + 1, hr, .inr rfl⟩
    | cons e rest => exact .inr (.inl ⟨e, rest, hm, rfl⟩)
  · obtain ⟨c, hr⟩ : ∃ c, s.run = .busy c 0 := by simpa [HostMoves] using hm
    exact .inl ⟨c, 0, hr, .inl rfl⟩

/-- The host's move serves its oldest event; the poll a CR read uses up changes the run state alone. -/
theorem step_serves {s : State} {e : HostEvent} {rest : List HostEvent} (hm : HostMoves s) (hh : s.host = e :: rest) :
    ∃ run, step s = .next { { s with host := rest }.serve e with run := run } := by
  obtain h | ⟨-, -, run, h⟩ := step_of_hostMoves hm hh
  · exact ⟨_, h⟩
  · exact ⟨run, h⟩

/-! ### The reset input -/

/-- Settles O2: the reset input is no CR read, so it is served as it stands, and leaves the block as reset does (O1). -/
theorem resetInputInEveryRunState : Obligations.ResetInputInEveryRunState := by
  intro s rest hh hm
  obtain ⟨-, hcf, -, -, -, hcr, hfcmd, hrun, hv, hs⟩ := resetLeavesStatedValues s.width
  obtain hstep | ⟨-, hread, -⟩ := step_of_hostMoves hm hh
  · exact ⟨{ s with host := rest }.resetInput, hstep, State.width_resetInput { s with host := rest }, hcf, hrun, hfcmd, hcr,
      hv, hs, rfl, rfl, rfl, rfl, rfl, rfl⟩
  · cases hread

/-! ### What the core's move leaves -/

/-- The core's step ends the command in flight, and leaves the read record (R354, R356). -/
theorem coreStep_ends (c : BitVec 64) (s : State) :
    ∃ t, coreStep c s = .next t ∧ t.busy = false ∧ t.busyAtLastRead = s.busyAtLastRead := by
  obtain ⟨_, -, h⟩ | ⟨i, -, h⟩ := coreStep_cases c s
  · exact ⟨_, h, rfl, rfl⟩
  · rw [h]
    obtain ⟨t, ht, ⟨_, hf⟩ | hc⟩ := exec_faults_or_completes i (s.noteReads (sourcesOf i))
    · obtain ⟨-, -, -, hrecord, -⟩ := keepsRun_of_faults hf
      obtain ⟨-, -, -, hbusy, -⟩ := hf
      exact ⟨t, ht, hbusy, hrecord⟩
    · obtain ⟨-, -, -, hrecord, -⟩ := keepsRun_of_completes hc
      obtain ⟨hidle, -⟩ := hc
      exact ⟨t, ht, busy_of_run_idle hidle, hrecord⟩

theorem step_ends_of_core_moves {s : State} {c : BitVec 64} {k : Nat} (hr : s.run = .busy c k)
    (hk : k = 0 ∨ s.host = []) : ∃ t, step s = .next t ∧ t.busy = false ∧ t.busyAtLastRead = s.busyAtLastRead := by
  rw [step_of_core_moves hr hk]
  exact coreStep_ends c s

/-! ### The end of BUSY -/

theorem serve_host (s : State) (e : HostEvent) : (s.serve e).host = s.host := by
  cases e with
  | read off size => exact hostRead_host s off size
  | write off size v =>
    obtain ⟨h, -⟩ := hostWrite_frame s off size v
    exact h
  | reset => rfl

theorem run_succ_of_step {s t : State} (h : step s = .next t) (n : Nat) :
    Host.Core.run core (n + 1) s = Host.Core.run core n t := by
  have hstep : core.step s = .next t := h
  simp only [Host.Core.run, hstep]

/-- BUSY is over within one step more than the host has events pending: each step serves one of them, or is the core's, or
finds nothing in flight. -/
theorem reaches_not_busy (s : State) :
    ∃ n t, n ≤ s.host.length + 1 ∧ Host.Core.run core n s = .next t ∧ t.busy = false := by
  obtain ⟨c, k, hr, hk⟩ | ⟨e, rest, hm, hh⟩ | ⟨hb, -⟩ := core_or_host_moves s
  · obtain ⟨t, ht, hb, -⟩ := step_ends_of_core_moves hr hk
    exact ⟨1, t, Nat.le_add_left .., run_succ_of_step ht 0, hb⟩
  · obtain ⟨run, ht⟩ := step_serves hm hh
    have hrest : ({ s with host := rest }.serve e).host = rest := serve_host ..
    have hless : rest.length < s.host.length := by simp [hh]
    obtain ⟨n, u, hn, hu, hb⟩ := reaches_not_busy { { s with host := rest }.serve e with run := run }
    rw [hrest] at hn
    exact ⟨n + 1, u, by omega, (run_succ_of_step ht n).trans hu, hb⟩
  · exact ⟨0, s, Nat.zero_le _, rfl, hb⟩
termination_by s.host.length
decreasing_by simpa only [hrest] using hless

/-- Settles O13: by recursion on the events pending. -/
theorem busyAlwaysEnds : Obligations.BusyAlwaysEnds := reaches_not_busy

/-! ### The read record -/

/-- An accepted read records BUSY as it stands (R356). -/
theorem serve_read_busyAtLastRead {s : State} {off size : Nat} (h : ¬ IsRefused s (.read off size)) :
    (s.serve (.read off size)).busyAtLastRead = s.busy := by
  obtain ⟨t, x, -, -, hread⟩ := hostRead_of_not_isRefused h
  rw [State.serve, hread, State.answerRead_busyAtLastRead, noteHostRead_busy]

/-- Every event but an accepted read leaves the record (R356; log 19). -/
theorem serve_busyAtLastRead_of_no_read {s : State} {e : HostEvent}
    (h : ∀ off size, e = .read off size → IsRefused s (.read off size)) :
    (s.serve e).busyAtLastRead = s.busyAtLastRead := by
  cases e with
  | read off size => rw [serve_of_isRefused (h off size rfl), State.refuse_busyAtLastRead]
  | write off size v =>
    obtain ⟨-, hrecord, -⟩ := hostWrite_frame s off size v
    exact hrecord
  | reset => rfl

/-- What one step does to the read record: an accepted read served records BUSY, and any other step leaves it. -/
theorem step_busyAtLastRead (s : State) : ∃ t, step s = .next t ∧
    (∀ off size rest, s.host = .read off size :: rest → HostMoves s → ¬ IsRefused s (.read off size) →
      t.busyAtLastRead = s.busy) ∧
    ((∀ off size rest, s.host = .read off size :: rest → HostMoves s → IsRefused s (.read off size)) →
      t.busyAtLastRead = s.busyAtLastRead) := by
  obtain ⟨c, k, hr, hk⟩ | ⟨e, rest, hm, hh⟩ | ⟨hb, hnil⟩ := core_or_host_moves s
  · obtain ⟨t, ht, -, hkept⟩ := step_ends_of_core_moves hr hk
    refine ⟨t, ht, fun off size rest hh hm => ?_, fun _ => hkept⟩
    obtain rfl | hnil := hk
    · exact absurd hr (hm c)
    · cases hnil.symm.trans hh
  · obtain ⟨run, ht⟩ := step_serves hm hh
    refine ⟨_, ht, fun off size rest' hh' _ hr => ?_, fun hrefused => ?_⟩
    · cases hh.symm.trans hh'
      exact serve_read_busyAtLastRead (s := { s with host := rest }) hr
    · refine serve_busyAtLastRead_of_no_read (s := { s with host := rest }) fun off size he => ?_
      exact hrefused off size rest (he ▸ hh) hm
  · refine ⟨hostTurn s, step_of_not_busy hb, fun off size rest hh => ?_, fun _ => ?_⟩
    · cases hnil.symm.trans hh
    · simp [hostTurn, hnil]

/-- Settles O60: a step serves an accepted read or keeps the record; so a record of BUSY = 1 gives way to an accepted read with
BUSY = 0 alone, which left the host no event. -/
theorem everyStepRecordsBusyAtTheLastRead : Obligations.EveryStepRecordsBusyAtTheLastRead := by
  refine ⟨step_busyAtLastRead, fun s t hbusy hclaim ht => ?_⟩
  obtain ⟨hnil, -, -, -, hrecord⟩ := hclaim
  obtain ⟨u, hu, hread, hkeep⟩ := step_busyAtLastRead s
  cases ht.symm.trans hu
  by_cases hno : ∀ off size rest, s.host = .read off size :: rest → HostMoves s → IsRefused s (.read off size)
  · cases hbusy.symm.trans ((hkeep hno).symm.trans hrecord)
  · push Not at hno
    obtain ⟨off, size, rest, hh, hm, hr⟩ := hno
    obtain ⟨run, hserve⟩ := step_serves hm hh
    cases ht.symm.trans hserve
    have hrest : ({ s with host := rest }.serve (.read off size)).host = rest := serve_host ..
    have hlast : rest = [] := hrest.symm.trans hnil
    exact ⟨off, size, hlast ▸ hh, (hread off size rest hh hm hr).symm.trans hrecord⟩

end Sys2Proof.Machine
end
